-- ==== Sys2Proof/Word.lean ====
section
/-! DEFINITION. The word types of the core and their plainest arithmetic (00_scope.md R7: bit 0 is the
least significant bit, every value is unsigned). -/

namespace Sys2Proof

/-- A byte: a general register, a memory cell, a timer, an immediate `kk` (10_state.md R10, R12, R22). -/
abbrev Byte := BitVec 8

/-- A 16-bit word: pc, I, a stack entry (10_state.md R14, R16, R17). -/
abbrev Word := BitVec 16

/-- An instruction word (30_encoding.md R60). -/
abbrev Opcode := BitVec 16

/-- The 4-bit register number of the fields `x` and `y` (30_encoding.md R61). -/
abbrev RegNum := BitVec 4

/-- The 12-bit immediate address `nnn` (30_encoding.md R61). -/
abbrev Addr12 := BitVec 12

/-- `VF` is the name of `V[15]` (10_state.md R13). -/
abbrev VF : RegNum := 0xF#4

/-- The flat framebuffer: 2048 one-bit pixels, pixel `k` at bit `k` (10_state.md R19: "a flat array of 2048 bits"). -/
abbrev Framebuffer := BitVec 2048

/-- The 80 bytes of the font table (00_scope.md R6). -/
abbrev Font := Vector Byte 80

end Sys2Proof
end

