-- ==== Sys2Proof/Syntax.lean ====
section
/-! DEFINITION. The instructions: one constructor per row of spec/opcode_table.json, in the order of
30_encoding.md R66. -/

namespace Sys2Proof

/-- The 34 instructions (30_encoding.md R66, 90_conflicts.md C1). A field has its encoding's width, but for the
row count of `drw`, a count of rows whose bound `Instr.wellFormed` checks. `shl6` and `shle` keep the field `y`
of their words although they ignore it (30_encoding.md R69), so that no legal word loses a bit. -/
inductive Instr where
  | cls                            -- 00E0
  | ret                            -- 00EE
  | jp (nnn : Addr12)              -- 1nnn
  | call (nnn : Addr12)            -- 2nnn
  | sei (x : RegNum) (kk : Byte)   -- 3xkk
  | snei (x : RegNum) (kk : Byte)  -- 4xkk
  | ser (x y : RegNum)             -- 5xy0
  | ldi (x : RegNum) (kk : Byte)   -- 6xkk
  | addi (x : RegNum) (kk : Byte)  -- 7xkk
  | mov (x y : RegNum)             -- 8xy0
  | or (x y : RegNum)              -- 8xy1
  | and (x y : RegNum)             -- 8xy2
  | xor (x y : RegNum)             -- 8xy3
  | add (x y : RegNum)             -- 8xy4
  | sub (x y : RegNum)             -- 8xy5
  | shl6 (x y : RegNum)            -- 8xy6
  | subf (x y : RegNum)            -- 8xy7
  | shle (x y : RegNum)            -- 8xyE
  | sner (x y : RegNum)            -- 9xy0
  | ldidx (nnn : Addr12)           -- Annn
  | jpv0 (nnn : Addr12)            -- Bnnn
  | rnd (x : RegNum) (kk : Byte)   -- Cxkk
  | drw (x y : RegNum) (n : Nat)   -- Dxyn
  | skp (x : RegNum)               -- Ex9E
  | sknp (x : RegNum)              -- ExA1
  | lddt (x : RegNum)              -- Fx07
  | wkey (x : RegNum)              -- Fx0A
  | stdt (x : RegNum)              -- Fx15
  | stst (x : RegNum)              -- Fx18
  | addidx (x : RegNum)            -- Fx1E
  | ldfont (x : RegNum)            -- Fx29
  | bcd (x : RegNum)               -- Fx33
  | stm (x : RegNum)               -- Fx55
  | ldm (x : RegNum)               -- Fx65
  deriving DecidableEq, Repr

end Sys2Proof
end

