-- ==== Sys2Proof/WellFormed.lean ====
section
/-! DEFINITION. Which instructions an encoding can hold. -/

namespace Sys2Proof

/-- Every register number, immediate byte and address fits its field by its type (30_encoding.md R61, R62); what is
left to check is the row count of `drw`, `n` in 0..15 (R62, 44_display.md R180). -/
def Instr.wellFormed : Instr → Bool
  | .cls => true
  | .ret => true
  | .jp _ => true
  | .call _ => true
  | .sei _ _ => true
  | .snei _ _ => true
  | .ser _ _ => true
  | .ldi _ _ => true
  | .addi _ _ => true
  | .mov _ _ => true
  | .or _ _ => true
  | .and _ _ => true
  | .xor _ _ => true
  | .add _ _ => true
  | .sub _ _ => true
  | .shl6 _ _ => true
  | .subf _ _ => true
  | .shle _ _ => true
  | .sner _ _ => true
  | .ldidx _ => true
  | .jpv0 _ => true
  | .rnd _ _ => true
  | .drw _ _ n => decide (n < 16)
  | .skp _ => true
  | .sknp _ => true
  | .lddt _ => true
  | .wkey _ => true
  | .stdt _ => true
  | .stst _ => true
  | .addidx _ => true
  | .ldfont _ => true
  | .bcd _ => true
  | .stm _ => true
  | .ldm _ => true

end Sys2Proof
end

