-- ==== Sys2Proof/Decode.lean ====
section
/-! DEFINITION. Decoding and encoding (30_encoding.md): the fields of R61, the two-level decode of R64, the opcode
map of R66, and an encoder written from the same map. -/

namespace Sys2Proof

/-- `top`, bits 15..12 (R61). -/
def opTop (op : Opcode) : BitVec 4 := op.extractLsb' 12 4

/-- `x`, bits 11..8 (R61). -/
def opX (op : Opcode) : RegNum := op.extractLsb' 8 4

/-- `y`, bits 7..4 (R61). -/
def opY (op : Opcode) : RegNum := op.extractLsb' 4 4

/-- `n`, bits 3..0 (R61). -/
def opN (op : Opcode) : BitVec 4 := op.extractLsb' 0 4

/-- `kk`, bits 7..0 (R61). -/
def opKK (op : Opcode) : Byte := op.extractLsb' 0 8

/-- `nnn`, bits 11..0 (R61). -/
def opNNN (op : Opcode) : Addr12 := op.extractLsb' 0 12

/-- `top = 0`: only 0x0E0 and 0x0EE are defined (R64, R67). -/
def decodeTop0 (op : Opcode) : Option Instr :=
  match opNNN op with
  | 0x0E0#12 => some .cls
  | 0x0EE#12 => some .ret
  | _ => none

/-- `top = 5`: the low nibble must be 0 (R64, 90_conflicts.md C4). -/
def decodeTop5 (op : Opcode) : Option Instr :=
  match opN op with
  | 0x0#4 => some (.ser (opX op) (opY op))
  | _ => none

/-- `top = 8` selects by `n` (R64). -/
def decodeTop8 (op : Opcode) : Option Instr :=
  match opN op with
  | 0x0#4 => some (.mov (opX op) (opY op))
  | 0x1#4 => some (.or (opX op) (opY op))
  | 0x2#4 => some (.and (opX op) (opY op))
  | 0x3#4 => some (.xor (opX op) (opY op))
  | 0x4#4 => some (.add (opX op) (opY op))
  | 0x5#4 => some (.sub (opX op) (opY op))
  | 0x6#4 => some (.shl6 (opX op) (opY op))
  | 0x7#4 => some (.subf (opX op) (opY op))
  | 0xE#4 => some (.shle (opX op) (opY op))
  | _ => none

/-- `top = 9`: the low nibble must be 0 (R64, 90_conflicts.md C4). -/
def decodeTop9 (op : Opcode) : Option Instr :=
  match opN op with
  | 0x0#4 => some (.sner (opX op) (opY op))
  | _ => none

/-- `top = E` selects by `kk` (R64). -/
def decodeTopE (op : Opcode) : Option Instr :=
  match opKK op with
  | 0x9E#8 => some (.skp (opX op))
  | 0xA1#8 => some (.sknp (opX op))
  | _ => none

/-- `top = F` selects by `kk` (R64). -/
def decodeTopF (op : Opcode) : Option Instr :=
  match opKK op with
  | 0x07#8 => some (.lddt (opX op))
  | 0x0A#8 => some (.wkey (opX op))
  | 0x15#8 => some (.stdt (opX op))
  | 0x18#8 => some (.stst (opX op))
  | 0x1E#8 => some (.addidx (opX op))
  | 0x29#8 => some (.ldfont (opX op))
  | 0x33#8 => some (.bcd (opX op))
  | 0x55#8 => some (.stm (opX op))
  | 0x65#8 => some (.ldm (opX op))
  | _ => none

/-- The instruction an opcode stands for, `none` for an illegal opcode (R64, R66, R68). It reads nothing but the 16
bits (R65). -/
def decodeWord (op : Opcode) : Option Instr :=
  match opTop op with
  | 0x0#4 => decodeTop0 op
  | 0x1#4 => some (.jp (opNNN op))
  | 0x2#4 => some (.call (opNNN op))
  | 0x3#4 => some (.sei (opX op) (opKK op))
  | 0x4#4 => some (.snei (opX op) (opKK op))
  | 0x5#4 => decodeTop5 op
  | 0x6#4 => some (.ldi (opX op) (opKK op))
  | 0x7#4 => some (.addi (opX op) (opKK op))
  | 0x8#4 => decodeTop8 op
  | 0x9#4 => decodeTop9 op
  | 0xA#4 => some (.ldidx (opNNN op))
  | 0xB#4 => some (.jpv0 (opNNN op))
  | 0xC#4 => some (.rnd (opX op) (opKK op))
  | 0xD#4 => some (.drw (opX op) (opY op) (opN op).toNat)
  | 0xE#4 => decodeTopE op
  | 0xF#4 => decodeTopF op
  | _ => none

/-- Why a byte sequence is not an instruction. -/
inductive DecodeReject where
  /-- The two bytes form an opcode that matches no row of R66 (R68). The engine takes the fault `illegalOpcode`. -/
  | illegalOpcode (op : Opcode)
  /-- Fewer than two bytes are left. The engine never sees it: fetch always has two (20_memory.md R47). -/
  | tooFewBytes (len : Nat)
  deriving DecidableEq, Repr

/-- The opcode of two consecutive bytes, the first in the high bits (20_memory.md R42). -/
def opcodeOf (hi lo : Byte) : Opcode := hi ++ lo

/-- Decoding of any byte sequence: the instruction and the bytes after it, or the reason by name (R60, R64). -/
def decode : List Byte → Except DecodeReject (Instr × List Byte)
  | hi :: lo :: rest =>
    match decodeWord (opcodeOf hi lo) with
    | some i => .ok (i, rest)
    | none => .error (.illegalOpcode (opcodeOf hi lo))
  | bytes => .error (.tooFewBytes bytes.length)

/-- The bytes of an opcode as memory holds them, high byte at the lower address (20_memory.md R42). -/
def opcodeBytes (op : Opcode) : List Byte := [op.extractLsb' 8 8, op.extractLsb' 0 8]

/-- What the decoder reads from the instruction word `w` of `nbits` bits, numbered as spec/opcode_table.json numbers
them (one 16-bit word; bits above `nbits` are 0). -/
def decodeTableWord (nbits w : Nat) : Option Instr :=
  match decode (opcodeBytes (BitVec.ofNat 16 (w % 2 ^ nbits))) with
  | .ok (i, _) => some i
  | .error _ => none

/-! The encoder, from the formats of R63. -/

/-- Format `NNN`. -/
def wordNNN (top : BitVec 4) (nnn : Addr12) : Opcode := top ++ nnn

/-- Format `XKK`; with a fixed low byte, format `X`. -/
def wordXKK (top : BitVec 4) (x : RegNum) (kk : Byte) : Opcode := top ++ (x ++ kk)

/-- Format `XYN`; with a fixed low nibble, format `XY`. -/
def wordXYN (top : BitVec 4) (x y : RegNum) (n : BitVec 4) : Opcode := top ++ (x ++ (y ++ n))

/-- The word of a well-formed instruction (R66). -/
def encode : Instr → Opcode
  | .cls => wordNNN 0x0#4 0x0E0#12
  | .ret => wordNNN 0x0#4 0x0EE#12
  | .jp nnn => wordNNN 0x1#4 nnn
  | .call nnn => wordNNN 0x2#4 nnn
  | .sei x kk => wordXKK 0x3#4 x kk
  | .snei x kk => wordXKK 0x4#4 x kk
  | .ser x y => wordXYN 0x5#4 x y 0x0#4
  | .ldi x kk => wordXKK 0x6#4 x kk
  | .addi x kk => wordXKK 0x7#4 x kk
  | .mov x y => wordXYN 0x8#4 x y 0x0#4
  | .or x y => wordXYN 0x8#4 x y 0x1#4
  | .and x y => wordXYN 0x8#4 x y 0x2#4
  | .xor x y => wordXYN 0x8#4 x y 0x3#4
  | .add x y => wordXYN 0x8#4 x y 0x4#4
  | .sub x y => wordXYN 0x8#4 x y 0x5#4
  | .shl6 x y => wordXYN 0x8#4 x y 0x6#4
  | .subf x y => wordXYN 0x8#4 x y 0x7#4
  | .shle x y => wordXYN 0x8#4 x y 0xE#4
  | .sner x y => wordXYN 0x9#4 x y 0x0#4
  | .ldidx nnn => wordNNN 0xA#4 nnn
  | .jpv0 nnn => wordNNN 0xB#4 nnn
  | .rnd x kk => wordXKK 0xC#4 x kk
  | .drw x y n => wordXYN 0xD#4 x y (BitVec.ofNat 4 n)
  | .skp x => wordXKK 0xE#4 x 0x9E#8
  | .sknp x => wordXKK 0xE#4 x 0xA1#8
  | .lddt x => wordXKK 0xF#4 x 0x07#8
  | .wkey x => wordXKK 0xF#4 x 0x0A#8
  | .stdt x => wordXKK 0xF#4 x 0x15#8
  | .stst x => wordXKK 0xF#4 x 0x18#8
  | .addidx x => wordXKK 0xF#4 x 0x1E#8
  | .ldfont x => wordXKK 0xF#4 x 0x29#8
  | .bcd x => wordXKK 0xF#4 x 0x33#8
  | .stm x => wordXKK 0xF#4 x 0x55#8
  | .ldm x => wordXKK 0xF#4 x 0x65#8

/-- The two bytes of an instruction as memory holds them. -/
def encodeBytes (i : Instr) : List Byte := opcodeBytes (encode i)

/-! The opcode map as data: `(mnemonic, match, mask)` per row of R66, in its order. -/

/-- Rows 1 to 12 of R66. -/
def opcodeRowsA : List (String × Opcode × Opcode) :=
  [ ("CLS", 0x00E0, 0xFFFF), ("RET", 0x00EE, 0xFFFF), ("JP", 0x1000, 0xF000), ("CALL", 0x2000, 0xF000),
    ("SEI", 0x3000, 0xF000), ("SNEI", 0x4000, 0xF000), ("SER", 0x5000, 0xF00F), ("LDI", 0x6000, 0xF000),
    ("ADDI", 0x7000, 0xF000), ("MOV", 0x8000, 0xF00F), ("OR", 0x8001, 0xF00F), ("AND", 0x8002, 0xF00F) ]

/-- Rows 13 to 23 of R66. -/
def opcodeRowsB : List (String × Opcode × Opcode) :=
  [ ("XOR", 0x8003, 0xF00F), ("ADD", 0x8004, 0xF00F), ("SUB", 0x8005, 0xF00F), ("SHL6", 0x8006, 0xF00F),
    ("SUBF", 0x8007, 0xF00F), ("SHLE", 0x800E, 0xF00F), ("SNER", 0x9000, 0xF00F), ("LDIDX", 0xA000, 0xF000),
    ("JPV0", 0xB000, 0xF000), ("RND", 0xC000, 0xF000), ("DRW", 0xD000, 0xF000) ]

/-- Rows 24 to 34 of R66. -/
def opcodeRowsC : List (String × Opcode × Opcode) :=
  [ ("SKP", 0xE09E, 0xF0FF), ("SKNP", 0xE0A1, 0xF0FF), ("LDDT", 0xF007, 0xF0FF), ("WKEY", 0xF00A, 0xF0FF),
    ("STDT", 0xF015, 0xF0FF), ("STST", 0xF018, 0xF0FF), ("ADDIDX", 0xF01E, 0xF0FF), ("LDFONT", 0xF029, 0xF0FF),
    ("BCD", 0xF033, 0xF0FF), ("STM", 0xF055, 0xF0FF), ("LDM", 0xF065, 0xF0FF) ]

/-- The opcode map of R66. -/
def opcodeRows : List (String × Opcode × Opcode) := opcodeRowsA ++ opcodeRowsB ++ opcodeRowsC

/-- An opcode lies in a row when its bits under the row's mask are the row's match (R64). -/
def inRow (op : Opcode) (row : String × Opcode × Opcode) : Bool := op &&& row.2.2 == row.2.1

/-- The row of an instruction, by its mnemonic. -/
def mnemonic : Instr → String
  | .cls => "CLS"
  | .ret => "RET"
  | .jp _ => "JP"
  | .call _ => "CALL"
  | .sei _ _ => "SEI"
  | .snei _ _ => "SNEI"
  | .ser _ _ => "SER"
  | .ldi _ _ => "LDI"
  | .addi _ _ => "ADDI"
  | .mov _ _ => "MOV"
  | .or _ _ => "OR"
  | .and _ _ => "AND"
  | .xor _ _ => "XOR"
  | .add _ _ => "ADD"
  | .sub _ _ => "SUB"
  | .shl6 _ _ => "SHL6"
  | .subf _ _ => "SUBF"
  | .shle _ _ => "SHLE"
  | .sner _ _ => "SNER"
  | .ldidx _ => "LDIDX"
  | .jpv0 _ => "JPV0"
  | .rnd _ _ => "RND"
  | .drw _ _ _ => "DRW"
  | .skp _ => "SKP"
  | .sknp _ => "SKNP"
  | .lddt _ => "LDDT"
  | .wkey _ => "WKEY"
  | .stdt _ => "STDT"
  | .stst _ => "STST"
  | .addidx _ => "ADDIDX"
  | .ldfont _ => "LDFONT"
  | .bcd _ => "BCD"
  | .stm _ => "STM"
  | .ldm _ => "LDM"

end Sys2Proof
end

