-- ==== Sys2Proof/Config.lean ====
section
/-! DEFINITION. What an implementation fixes (00_scope.md R5), and the free value of R6. -/

namespace Sys2Proof.Config

/-- `MEM_SIZE`: bytes of memory (R5). -/
abbrev memSize : Nat := 4096

/-- `STACK_DEPTH`: entries of the call stack (R5). -/
abbrev stackDepth : Nat := 16

/-- `FB_W`: the row stride of the framebuffer (R5). -/
abbrev fbWidth : Nat := 64

/-- Pixels of the framebuffer, `FB_W * FB_H` (R5). -/
abbrev fbSize : Nat := 2048

/-- `NKEYS` (R5). -/
abbrev numKeys : Nat := 16

/-- `PROG_BASE`: where `load` places a program and where execution starts (R5). -/
abbrev progBase : Nat := 0x200

/-- `FONT_LEN`: the font occupies 0x000..0x04F (R5). -/
abbrev fontLen : Nat := 80

/-- `GLYPH_STRIDE`: bytes per glyph (R5). -/
abbrev glyphStride : Nat := 5

/-- `ROM_MAX`: the longest image `load` accepts (R5). -/
abbrev romMax : Nat := 3584

/-- `PC_MAX_FETCH`: the highest address an instruction can be fetched from (R5). -/
abbrev pcMaxFetch : Nat := 4094

/-- The free input `rand` (00_scope.md R6, 42_alu.md R132, 92_eei_decisions.md D13) of a step that is given no byte: what
`random_byte()` returns at draw number `n` of the machine's life. It has no body, so nothing can be proved of its value: a claim
about it holds whatever the bytes are. Log entry 2. -/
opaque randomByte : Nat → Byte

end Sys2Proof.Config
end

