-- ==== Sys2Proof/Machine/Font.lean ====
section
/-! DEFINITION. The default value of the open parameter FONT (00_scope.md R6): the 80 bytes that
92_eei_decisions.md D14 gives as its default, which the spec itself takes from general knowledge.
PRESUMED, unsafe: log entry 3. -/

namespace Sys2Proof.Machine

/-- The glyphs of the digits 0 to 7, five bytes each (D14). -/
def fontLow : List Byte :=
  [0xF0, 0x90, 0x90, 0x90, 0xF0] ++ [0x20, 0x60, 0x20, 0x20, 0x70] ++
  [0xF0, 0x10, 0xF0, 0x80, 0xF0] ++ [0xF0, 0x10, 0xF0, 0x10, 0xF0] ++
  [0x90, 0x90, 0xF0, 0x10, 0x10] ++ [0xF0, 0x80, 0xF0, 0x10, 0xF0] ++
  [0xF0, 0x80, 0xF0, 0x90, 0xF0] ++ [0xF0, 0x10, 0x20, 0x40, 0x40]

/-- The glyphs of the digits 8 to F (D14). -/
def fontHigh : List Byte :=
  [0xF0, 0x90, 0xF0, 0x90, 0xF0] ++ [0xF0, 0x90, 0xF0, 0x10, 0xF0] ++
  [0xF0, 0x90, 0xF0, 0x90, 0x90] ++ [0xE0, 0x90, 0xE0, 0x90, 0xE0] ++
  [0xF0, 0x80, 0x80, 0x80, 0xF0] ++ [0xE0, 0x90, 0x90, 0x90, 0xE0] ++
  [0xF0, 0x80, 0xF0, 0x80, 0xF0] ++ [0xF0, 0x80, 0xF0, 0x80, 0x80]

/-- The default font (D14). -/
def defaultFont : Font := ⟨⟨fontLow ++ fontHigh⟩, by decide⟩

end Sys2Proof.Machine
end

