-- ==== Sys2Proof/Machine/State.lean ====
section
/-! DEFINITION. The state of the core (10_state.md), as plain data, and its value after reset (R260). -/

namespace Sys2Proof.Machine

/-- The faults of a step (60_exceptions.md R230), with the information each records. Raising one is a NEXT state in
which nothing but the latch `State.fault` has changed (R236); a step of a core whose latch is set answers
`.fault f` and changes nothing (R237, 40_step_engine.md R90). Log entry 1. -/
inductive Fault where
  /-- Raised by fetch when a step starts with `pc > 4094` (R231). Safe. -/
  | fetchOutOfBounds (pc : Word)
  /-- Raised by decode for an opcode in no row of the opcode map (R232). Safe. -/
  | illegalOpcode (op : Opcode)
  /-- Raised by `CALL` when all 16 entries are in use (R233). Safe. -/
  | stackOverflow
  /-- Raised by `RET` when the stack is empty (R234). Safe. -/
  | stackUnderflow
  /-- Raised by `DRW`, `BCD`, `STM`, `LDM` for an access above 0xFFF, with the lowest offending address (R235). Safe. -/
  | dataOutOfBounds (addr : Nat)
  /-- Raised by `SKP` and `SKNP` when `V[x] > 15` (R238). Safe. -/
  | keyIndexOutOfBounds (k : Byte)
  deriving DecidableEq, Repr

/-- Reasons to give an instruction no meaning. Every instruction of this core has one, so none is ever raised. -/
inductive Refusal where
  /-- Raised by `exec`'s arm of an instruction without a meaning yet; no arm is left so. Safe. -/
  | notModelled (mnemonic : String)
  deriving DecidableEq, Repr

/-- Memory: the bytes that differ from what an unlisted address reads as, by rising address. -/
abbrev Memory := List Host.Cell

/-- The core's state: the closed list of 10_state.md R29 and the latch of R23; then two fields of the model's own. -/
structure State where
  /-- `mem` (R10), in the canonical form `Memory.wf`. -/
  mem : Memory
  /-- `V[0]..V[15]` (R12). -/
  v : Vector Byte 16
  /-- `stack[0]..stack[15]` (R17). -/
  stack : Vector Word 16
  /-- The stack pointer, legal values 0..16 (R18). -/
  sp : Byte
  /-- The program counter (R14). -/
  pc : Word
  /-- `I` (R16). -/
  index : Word
  /-- `fb[0..2047]` (R19). -/
  fb : Framebuffer
  /-- `keys[0..15]`, true = pressed (R21). -/
  keys : Vector Bool 16
  /-- `DT` (R22). -/
  dt : Byte
  /-- `ST` (R22). -/
  st : Byte
  /-- The fault latch (R23). -/
  fault : Option Fault
  /-- MODEL'S OWN: the parameter FONT (00_scope.md R6), fixed for a machine's life. Log entry 3. -/
  font : Font
  /-- MODEL'S OWN: how many random bytes have been drawn (42_alu.md R132). Log entry 2. -/
  randDraws : Nat
  deriving DecidableEq, Repr

/-- An outcome of this machine. -/
abbrev Result := Host.Outcome State Fault Refusal

/-- What `step` returns to the driver (40_step_engine.md R80, 46_host_interface.md R215). -/
inductive StepReport where
  | ok (toneTick : Bool)
  | fault (f : Fault)
  deriving DecidableEq, Repr

/-- The state after `initialize`, for any FONT (70_reset_and_hazards.md R260). No byte of memory is listed: an
unlisted address reads as its reset content. `randDraws` is no item of R260: log entry 2. -/
def State.initial (font : Font) : State where
  mem := []
  v := Vector.replicate 16 0
  stack := Vector.replicate 16 0
  sp := 0
  pc := 0x200
  index := 0
  fb := 0
  keys := Vector.replicate 16 false
  dt := 0
  st := 0
  fault := none
  font := font
  randDraws := 0

/-- The machine right after reset (R260), with the default FONT of 92_eei_decisions.md D14 (log entry 3). -/
def State.reset : State := State.initial defaultFont

end Sys2Proof.Machine
end

