-- ==== Sys2Proof/Machine/Ops.lean ====
section
/-! DEFINITION. The named operations over the state: one accessor and one update per piece of state, memory in its
canonical form, block transfers, the moves of pc, raising a fault, and the end of a step. -/

namespace Sys2Proof.Machine

/-! ### Memory (20_memory.md) -/

/-- What an address that memory does not list reads as: its content after `initialize` (10_state.md R11), FONT below
0x050 and zero above. Addresses above 0xFFF do not exist; every access is bounded before it is made (R46, R47). -/
def Memory.unlisted (font : Font) (a : Nat) : Byte :=
  if h : a < 80 then font[a] else 0

/-- The byte at an address (R10). -/
def Memory.read (font : Font) : Memory → Nat → Byte
  | [], a => Memory.unlisted font a
  | (k, b) :: m, a => if k = a then b else Memory.read font m a

/-- Memory without an entry for an address. -/
def Memory.erase (m : Memory) (a : Nat) : Memory := m.filter (fun c => c.1 != a)

/-- An entry put at its place by address. -/
def Memory.insert (a : Nat) (b : Byte) : Memory → Memory
  | [] => [(a, b)]
  | c :: m => if a < c.1 then (a, b) :: c :: m else c :: Memory.insert a b m

/-- One byte written (R45): the canonical form lists no byte that an unlisted address reads as anyway. -/
def Memory.write (font : Font) (m : Memory) (a : Nat) (b : Byte) : Memory :=
  if b = Memory.unlisted font a then Memory.erase m a else Memory.insert a b (Memory.erase m a)

/-- The canonical form: addresses strictly rising and below 4096, and no entry equal to what an unlisted address
reads as. -/
abbrev Memory.wf (font : Font) (m : Memory) : Prop :=
  m.Pairwise (fun c d => c.1 < d.1) ∧ ∀ c ∈ m, c.1 < 4096 ∧ c.2 ≠ Memory.unlisted font c.1

/-! ### One accessor and one update per piece of state -/

/-- `mem[a]` (R10). -/
def State.readByte (s : State) (a : Nat) : Byte := Memory.read s.font s.mem a

/-- `mem[a] <- b`. -/
def State.writeByte (s : State) (a : Nat) (b : Byte) : State := { s with mem := Memory.write s.font s.mem a b }

/-- `V[x]` (10_state.md R12). -/
def State.reg (s : State) (x : RegNum) : Byte := s.v[x.toNat]'x.isLt

/-- `V[x] <- b`. -/
def State.setReg (s : State) (x : RegNum) (b : Byte) : State := { s with v := s.v.set x.toNat b x.isLt }

/-- `stack[k]` (R17); only entries 0..15 exist, and the stack instructions check the index first. -/
def State.stackEntry (s : State) (k : Nat) : Word := s.stack[k]?.getD 0

/-- `stack[k] <- w`. -/
def State.setStackEntry (s : State) (k : Nat) (w : Word) : State := { s with stack := s.stack.setIfInBounds k w }

/-- `sp <- p` (R18). -/
def State.setSp (s : State) (p : Byte) : State := { s with sp := p }

/-- `pc <- a` (R14). -/
def State.setPc (s : State) (a : Word) : State := { s with pc := a }

/-- `I <- a` (R16). -/
def State.setIndex (s : State) (a : Word) : State := { s with index := a }

/-- The whole framebuffer written (R20). -/
def State.setFb (s : State) (f : Framebuffer) : State := { s with fb := f }

/-- Pixel `fb[k]` (R19). -/
def State.pixel (s : State) (k : Nat) : Bool := s.fb.getLsbD k

/-- `keys[k]` (R21); only keys 0..15 exist, and the key instructions check the index first. -/
def State.key (s : State) (k : Nat) : Bool := s.keys[k]?.getD false

/-- `DT <- b` (R22). -/
def State.setDt (s : State) (b : Byte) : State := { s with dt := b }

/-- `ST <- b` (R22). -/
def State.setSt (s : State) (b : Byte) : State := { s with st := b }

/-- The random byte of this draw is taken: the next draw is another one (42_alu.md R132). -/
def State.countDraw (s : State) : State := { s with randDraws := s.randDraws + 1 }

/-! ### Block transfers (43_index_memory.md R155), at ascending addresses (20_memory.md R43) -/

/-- The `n` bytes from address `a` on. -/
def State.readBytes (s : State) (a n : Nat) : List Byte := (List.range n).map (fun k => s.readByte (a + k))

/-- Consecutive bytes stored from address `a` on. -/
def State.storeBytes (s : State) (a : Nat) : List Byte → State
  | [] => s
  | b :: bs => (s.writeByte a b).storeBytes (a + 1) bs

/-- `V[0]..V[n-1]`. -/
def State.readRegs (s : State) (n : Nat) : List Byte := (List.range n).map (fun k => s.reg (BitVec.ofNat 4 k))

/-- Consecutive registers written from `V[k]` on. -/
def State.setRegs (s : State) (k : Nat) : List Byte → State
  | [] => s
  | b :: bs => (s.setReg (BitVec.ofNat 4 k) b).setRegs (k + 1) bs

/-! ### The program counter (40_step_engine.md R86) -/

/-- `pc <- pc + 2`, modulo 65536 (10_state.md R15). -/
def State.advance (s : State) : State := s.setPc (s.pc + 2)

/-- `pc <- c ? pc + 4 : pc + 2` (41_control_flow.md R109). -/
def State.skipIf (s : State) (c : Bool) : State := s.setPc (if c then s.pc + 4 else s.pc + 2)

/-! ### The flag register (10_state.md R13, R133: a flag value is 0x00 or 0x01) -/

/-- `VF <- c`. -/
def State.setFlag (s : State) (c : Bool) : State := s.setReg VF (if c then 1 else 0)

/-- A flag first and a result second (42_alu.md R120): where the destination is VF the result stays (R134). -/
def State.setFlagThenReg (s : State) (c : Bool) (x : RegNum) (b : Byte) : State := (s.setFlag c).setReg x b

/-! ### Faults (60_exceptions.md R236). There is no return from a fault (R243): the way on is `State.initialise`
in Machine/Driver.lean. -/

/-- The latch is set and nothing else changes. -/
def State.raise (s : State) (f : Fault) : State := { s with fault := some f }

/-- An instruction or a step takes a fault: a next state, in which only the latch has changed (R236). -/
def takeFault (s : State) (f : Fault) : Result := .next (s.raise f)

/-- The numeric code of a fault (R230). -/
def Fault.code : Fault → Nat
  | .fetchOutOfBounds _ => 1
  | .illegalOpcode _ => 2
  | .stackOverflow => 3
  | .stackUnderflow => 4
  | .dataOutOfBounds _ => 5
  | .keyIndexOutOfBounds _ => 6

/-! ### The end of a step (40_step_engine.md, phase 4) -/

/-- One count down, never below 0 (R88). -/
def decayTimer (t : Byte) : Byte := if t = 0 then 0 else t - 1

/-- Both timers decay, independently (R88). -/
def State.decay (s : State) : State := (s.setDt (decayTimer s.dt)).setSt (decayTimer s.st)

/-- Phase 4 on the state that execute left: a step that raised a fault does not decay (R88, R236). -/
def State.retire (s : State) : State := if s.fault.isSome then s else s.decay

/-- Phase 4 on an outcome of execute. -/
def retireResult : Result → Result
  | .next s => .next s.retire
  | .fault f => .fault f
  | .refused r => .refused r

/-- `tone_tick` of the step, from the state that execute left: ST is exactly 1 before this step's decay (R24, R89). -/
def State.toneTick (s : State) : Bool := s.st == 1

/-- `sound_active` (R25). -/
def State.soundActive (s : State) : Bool := s.st != 0

/-- What the step returns, from the state that execute left (R80). -/
def State.report (s : State) : StepReport :=
  match s.fault with
  | some f => .fault f
  | none => .ok s.toneTick

end Sys2Proof.Machine
end

