-- ==== Sys2Proof/Machine/Operands.lean ====
section
/-! DEFINITION. Every operand form of the instruction set: immediates, the addressing mode `I + k` with its bounds,
the stack top, key indexes, sprite coordinates. Register operands are `State.reg` (Machine/Ops.lean). -/

namespace Sys2Proof.Machine

/-- `zext_16(nnn)`: an absolute byte address (30_encoding.md R62). -/
def zextAddr (nnn : Addr12) : Word := nnn.setWidth 16

/-- A byte as a 16-bit addend. -/
def zextByte (b : Byte) : Word := b.setWidth 16

/-- `EA(k) = I + k`, a mathematical integer, not wrapped and not masked (20_memory.md R41, 43_index_memory.md R150). -/
def State.effAddr (s : State) (k : Nat) : Nat := s.index.toNat + k

/-- Some of the `n` bytes from `I` on lies above 0xFFF (20_memory.md R46). With `n = 0` nothing is accessed
(44_display.md R173). -/
def State.dataOut (s : State) (n : Nat) : Bool := decide (0 < n ∧ 4095 < s.effAddr (n - 1))

/-- The fault of such an access, with the lowest offending address `max(I, 4096)` (R46). -/
def State.dataFault (s : State) : Fault := .dataOutOfBounds (max s.index.toNat 4096)

/-- The stack has no free entry: `sp` is not an index 0..15 (20_memory.md R48). Only `sp = 16` is reachable;
log entry 4. -/
def State.stackFull (s : State) : Bool := decide (16 ≤ s.sp.toNat)

/-- The stack has no entry to pop: `sp - 1` is not an index 0..15 (20_memory.md R48). Only `sp = 0` is reachable;
log entry 4. -/
def State.stackEmpty (s : State) : Bool := decide (s.sp.toNat = 0 ∨ 16 < s.sp.toNat)

/-- `V[x]` is no key index (45_keypad_timers.md R192). -/
def State.keyOut (s : State) (x : RegNum) : Bool := decide (15 < (s.reg x).toNat)

/-- `keys[V[x]]` (45_keypad_timers.md R190). -/
def State.keyOf (s : State) (x : RegNum) : Bool := s.key (s.reg x).toNat

/-- The lowest pressed key, if any (45_keypad_timers.md R193). -/
def State.lowestKey (s : State) : Option Nat := s.keys.toList.findIdx? (fun k => k)

/-- How many registers `STM` and `LDM` move: `x + 1` (43_index_memory.md R155). -/
def blockLength (x : RegNum) : Nat := x.toNat + 1

end Sys2Proof.Machine
end

