-- ==== Sys2Proof/Machine/Flags.lean ====
section
/-! DEFINITION. Every flag computation (42_alu.md R133, 43_index_memory.md R152; the collision flag is computed with
the sprite in Machine/Display.lean), and the results that go with them. -/

namespace Sys2Proof.Machine

/-- `ADD`: the carry out of bit 7 (R127). -/
def addCarry (a b : Byte) : Bool := decide (255 < a.toNat + b.toNat)

/-- `ADD`, `ADDI`: the sum modulo 256 (R122, R127). -/
def addResult (a b : Byte) : Byte := a + b

/-- `SUB`: strictly greater (R128, 90_conflicts.md C2). -/
def subFlag (a b : Byte) : Bool := decide (b.toNat < a.toNat)

/-- `SUBF`: the reversed comparison (R130, 90_conflicts.md C3). -/
def subfFlag (a b : Byte) : Bool := decide (a.toNat < b.toNat)

/-- `SUB`, `SUBF`: the same difference modulo 256 for both (R128, R130). -/
def subResult (a b : Byte) : Byte := a - b

/-- `SHL6`: the old bit 0 (R129). -/
def shl6Flag (a : Byte) : Bool := a.getLsbD 0

/-- `SHLE`: the old bit 7 (R131). -/
def shleFlag (a : Byte) : Bool := a.getLsbD 7

/-- `SHL6`, `SHLE`: a left shift by one (R129, R131). -/
def shlResult (a : Byte) : Byte := a <<< 1

/-- `ADDIDX`: the unwrapped sum exceeds 0xFFF (R152). -/
def indexOverflow (i : Word) (a : Byte) : Bool := decide (0x0FFF < i.toNat + a.toNat)

/-- `ADDIDX`: the sum modulo 65536 (R152). -/
def indexSum (i : Word) (a : Byte) : Word := i + zextByte a

end Sys2Proof.Machine
end

