-- ==== Sys2Proof/Machine/Alu.lean ====
section
/-! DEFINITION. Register loads, arithmetic, logic and the random byte (42_alu.md). -/

namespace Sys2Proof.Machine

/-- `LDI Vx, kk` (R121). -/
def execLdi (x : RegNum) (kk : Byte) (s : State) : Result := .next (s.setReg x kk).advance

/-- `ADDI Vx, kk` (R122): no flag. -/
def execAddi (x : RegNum) (kk : Byte) (s : State) : Result :=
  .next (s.setReg x (addResult (s.reg x) kk)).advance

/-- `MOV Vx, Vy` (R123). -/
def execMov (x y : RegNum) (s : State) : Result := .next (s.setReg x (s.reg y)).advance

/-- `OR Vx, Vy` (R124): no flag. -/
def execOr (x y : RegNum) (s : State) : Result := .next (s.setReg x (s.reg x ||| s.reg y)).advance

/-- `AND Vx, Vy` (R125): no flag. -/
def execAnd (x y : RegNum) (s : State) : Result := .next (s.setReg x (s.reg x &&& s.reg y)).advance

/-- `XOR Vx, Vy` (R126): no flag. -/
def execXor (x y : RegNum) (s : State) : Result := .next (s.setReg x (s.reg x ^^^ s.reg y)).advance

/-- `ADD Vx, Vy` (R127). -/
def execAdd (x y : RegNum) (s : State) : Result :=
  .next (s.setFlagThenReg (addCarry (s.reg x) (s.reg y)) x (addResult (s.reg x) (s.reg y))).advance

/-- `SUB Vx, Vy` (R128). -/
def execSub (x y : RegNum) (s : State) : Result :=
  .next (s.setFlagThenReg (subFlag (s.reg x) (s.reg y)) x (subResult (s.reg x) (s.reg y))).advance

/-- `SHL6 Vx` (R129); the word's `y` is ignored (30_encoding.md R69). -/
def execShl6 (x : RegNum) (s : State) : Result :=
  .next (s.setFlagThenReg (shl6Flag (s.reg x)) x (shlResult (s.reg x))).advance

/-- `SUBF Vx, Vy` (R130). -/
def execSubf (x y : RegNum) (s : State) : Result :=
  .next (s.setFlagThenReg (subfFlag (s.reg x) (s.reg y)) x (subResult (s.reg x) (s.reg y))).advance

/-- `SHLE Vx` (R131); the word's `y` is ignored (30_encoding.md R69). -/
def execShle (x : RegNum) (s : State) : Result :=
  .next (s.setFlagThenReg (shleFlag (s.reg x)) x (shlResult (s.reg x))).advance

/-- `RND Vx, kk` (R132) with the byte `rand` that this step is given. -/
def rndWith (rand : Byte) (x : RegNum) (kk : Byte) (s : State) : Result :=
  .next (s.countDraw.setReg x (rand &&& kk)).advance

/-- `RND Vx, kk` (R132) in a step that is given no byte: `rand` is the free byte of this draw (log entry 2). -/
def execRnd (x : RegNum) (kk : Byte) (s : State) : Result := rndWith (Config.randomByte s.randDraws) x kk s

end Sys2Proof.Machine
end

