-- ==== Sys2Proof/Machine/ControlFlow.lean ====
section
/-! DEFINITION. Control transfer and the call stack (41_control_flow.md). -/

namespace Sys2Proof.Machine

/-- `RET` (R101). The popped entry stays in place (10_state.md R17). -/
def execRet (s : State) : Result :=
  if s.stackEmpty then takeFault s .stackUnderflow
  else .next ((s.setSp (s.sp - 1)).setPc (s.stackEntry (s.sp.toNat - 1) + 2))

/-- `JP nnn` (R102). -/
def execJp (nnn : Addr12) (s : State) : Result := .next (s.setPc (zextAddr nnn))

/-- `CALL nnn` (R103): the address of the call itself is pushed. -/
def execCall (nnn : Addr12) (s : State) : Result :=
  if s.stackFull then takeFault s .stackOverflow
  else .next (((s.setStackEntry s.sp.toNat s.pc).setSp (s.sp + 1)).setPc (zextAddr nnn))

/-- `SEI Vx, kk` (R104). -/
def execSei (x : RegNum) (kk : Byte) (s : State) : Result := .next (s.skipIf (s.reg x == kk))

/-- `SNEI Vx, kk` (R105). -/
def execSnei (x : RegNum) (kk : Byte) (s : State) : Result := .next (s.skipIf (s.reg x != kk))

/-- `SER Vx, Vy` (R106). -/
def execSer (x y : RegNum) (s : State) : Result := .next (s.skipIf (s.reg x == s.reg y))

/-- `SNER Vx, Vy` (R107). -/
def execSner (x y : RegNum) (s : State) : Result := .next (s.skipIf (s.reg x != s.reg y))

/-- `JPV0 nnn` (R108): the register is always V0. -/
def execJpv0 (nnn : Addr12) (s : State) : Result := .next (s.setPc (zextAddr nnn + zextByte (s.reg 0)))

end Sys2Proof.Machine
end

