-- ==== Sys2Proof/Machine/Display.lean ====
section
/-! DEFINITION. The framebuffer: clear, the sprite compositor and the XOR collision detector (44_display.md). -/

namespace Sys2Proof.Machine

/-- A framebuffer being drawn on, with the collision found so far. -/
abbrev Canvas := Framebuffer × Bool

/-- The flat index of column `px` of row `py` (R175): integers, no modulo on either coordinate. -/
def pixelIndex (px py : Nat) : Nat := py * 64 + px

/-- The compositor cell for a sprite bit that is 1 (R177): the pixel is toggled, and it is a collision if it was lit.
An index of 2048 or more has no cell and is dropped (R176). -/
def plot (idx : Nat) (c : Canvas) : Canvas :=
  if idx < 2048 then (c.1 ^^^ BitVec.twoPow 2048 idx, c.2 || c.1.getLsbD idx) else c

/-- One sprite row at column `px`, row `py`: column `col` of the sprite is bit `7 - col` (R174). -/
def drawRow (px py : Nat) (b : Byte) (c : Canvas) : Canvas :=
  (List.range 8).foldl (fun c col => if b.getLsbD (7 - col) then plot (pixelIndex (px + col) py) c else c) c

/-- The sprite's rows, the first at row `py` (R171). -/
def drawRows (px py : Nat) : List Byte → Canvas → Canvas
  | [], c => c
  | b :: bs, c => drawRows px (py + 1) bs (drawRow px py b c)

/-- `CLS` (R170): VF is not written. -/
def execCls (s : State) : Result := .next (s.setFb 0).advance

/-- The sprite of `n` rows at (`V[x]`, `V[y]`) drawn on the framebuffer, with the collision (R171). -/
def State.drawn (s : State) (x y : RegNum) (n : Nat) : Canvas :=
  drawRows (s.reg x).toNat (s.reg y).toNat (s.readBytes (s.effAddr 0) n) (s.fb, false)

/-- `DRW Vx, Vy, n` (R171): coordinates are sampled before VF is written (R172). -/
def execDrw (x y : RegNum) (n : Nat) (s : State) : Result :=
  if s.dataOut n then takeFault s s.dataFault
  else .next ((s.setFb (s.drawn x y n).1).setFlag (s.drawn x y n).2).advance

end Sys2Proof.Machine
end

