-- ==== Sys2Proof/Machine/IndexMemory.lean ====
section
/-! DEFINITION. The index register and the memory transfers (43_index_memory.md). -/

namespace Sys2Proof.Machine

/-- `LDIDX nnn` (R151). -/
def execLdidx (nnn : Addr12) (s : State) : Result := .next (s.setIndex (zextAddr nnn)).advance

/-- `ADDIDX Vx` (R152): VF is the flag, also where the addend is the old VF. -/
def execAddidx (x : RegNum) (s : State) : Result :=
  .next ((s.setFlag (indexOverflow s.index (s.reg x))).setIndex (indexSum s.index (s.reg x))).advance

/-- `LDFONT Vx` (R153): the whole byte times the glyph stride. -/
def execLdfont (x : RegNum) (s : State) : Result := .next (s.setIndex (zextByte (s.reg x) * 5)).advance

/-- The three decimal digits of a byte, hundreds first (R154). -/
def bcdDigits (b : Byte) : List Byte :=
  [BitVec.ofNat 8 (b.toNat / 100), BitVec.ofNat 8 (b.toNat / 10 % 10), BitVec.ofNat 8 (b.toNat % 10)]

/-- `BCD Vx` (R154). -/
def execBcd (x : RegNum) (s : State) : Result :=
  if s.dataOut 3 then takeFault s s.dataFault
  else .next (s.storeBytes (s.effAddr 0) (bcdDigits (s.reg x))).advance

/-- `STM Vx` (R156). -/
def execStm (x : RegNum) (s : State) : Result :=
  if s.dataOut (blockLength x) then takeFault s s.dataFault
  else .next (s.storeBytes (s.effAddr 0) (s.readRegs (blockLength x))).advance

/-- `LDM Vx` (R157). -/
def execLdm (x : RegNum) (s : State) : Result :=
  if s.dataOut (blockLength x) then takeFault s s.dataFault
  else .next (s.setRegs 0 (s.readBytes (s.effAddr 0) (blockLength x))).advance

end Sys2Proof.Machine
end

