-- ==== Sys2Proof/Machine/KeypadTimers.lean ====
section
/-! DEFINITION. The keypad and timer instructions (45_keypad_timers.md). The decay of the timers follows each of them
in the same step (`State.retire`). -/

namespace Sys2Proof.Machine

/-- `SKP Vx` (R190, R192). -/
def execSkp (x : RegNum) (s : State) : Result :=
  if s.keyOut x then takeFault s (.keyIndexOutOfBounds (s.reg x)) else .next (s.skipIf (s.keyOf x))

/-- `SKNP Vx` (R191, R192). -/
def execSknp (x : RegNum) (s : State) : Result :=
  if s.keyOut x then takeFault s (.keyIndexOutOfBounds (s.reg x)) else .next (s.skipIf (!s.keyOf x))

/-- `WKEY Vx` (R193): with no key pressed nothing is written and pc stays. -/
def execWkey (x : RegNum) (s : State) : Result :=
  match s.lowestKey with
  | none => .next s
  | some k => .next (s.setReg x (BitVec.ofNat 8 k)).advance

/-- `LDDT Vx` (R194): DT before this step's decay. -/
def execLddt (x : RegNum) (s : State) : Result := .next (s.setReg x s.dt).advance

/-- `STDT Vx` (R195). -/
def execStdt (x : RegNum) (s : State) : Result := .next (s.setDt (s.reg x)).advance

/-- `STST Vx` (R196). -/
def execStst (x : RegNum) (s : State) : Result := .next (s.setSt (s.reg x)).advance

end Sys2Proof.Machine
end

