-- ==== Sys2Proof/Machine/Dispatch.lean ====
section
/-! DEFINITION. Execute (40_step_engine.md R85): one arm per instruction, each one call of its meaning. -/

namespace Sys2Proof.Machine

def exec (i : Instr) (s : State) : Host.Outcome State Fault Refusal :=
  match i with
  | .cls => Sys2Proof.Machine.execCls s
  | .ret => Sys2Proof.Machine.execRet s
  | .jp nnn => Sys2Proof.Machine.execJp nnn s
  | .call nnn => Sys2Proof.Machine.execCall nnn s
  | .sei x kk => Sys2Proof.Machine.execSei x kk s
  | .snei x kk => Sys2Proof.Machine.execSnei x kk s
  | .ser x y => Sys2Proof.Machine.execSer x y s
  | .ldi x kk => Sys2Proof.Machine.execLdi x kk s
  | .addi x kk => Sys2Proof.Machine.execAddi x kk s
  | .mov x y => Sys2Proof.Machine.execMov x y s
  | .or x y => Sys2Proof.Machine.execOr x y s
  | .and x y => Sys2Proof.Machine.execAnd x y s
  | .xor x y => Sys2Proof.Machine.execXor x y s
  | .add x y => Sys2Proof.Machine.execAdd x y s
  | .sub x y => Sys2Proof.Machine.execSub x y s
  | .shl6 x _ => Sys2Proof.Machine.execShl6 x s
  | .subf x y => Sys2Proof.Machine.execSubf x y s
  | .shle x _ => Sys2Proof.Machine.execShle x s
  | .sner x y => Sys2Proof.Machine.execSner x y s
  | .ldidx nnn => Sys2Proof.Machine.execLdidx nnn s
  | .jpv0 nnn => Sys2Proof.Machine.execJpv0 nnn s
  | .rnd x kk => Sys2Proof.Machine.execRnd x kk s
  | .drw x y n => Sys2Proof.Machine.execDrw x y n s
  | .skp x => Sys2Proof.Machine.execSkp x s
  | .sknp x => Sys2Proof.Machine.execSknp x s
  | .lddt x => Sys2Proof.Machine.execLddt x s
  | .wkey x => Sys2Proof.Machine.execWkey x s
  | .stdt x => Sys2Proof.Machine.execStdt x s
  | .stst x => Sys2Proof.Machine.execStst x s
  | .addidx x => Sys2Proof.Machine.execAddidx x s
  | .ldfont x => Sys2Proof.Machine.execLdfont x s
  | .bcd x => Sys2Proof.Machine.execBcd x s
  | .stm x => Sys2Proof.Machine.execStm x s
  | .ldm x => Sys2Proof.Machine.execLdm x s

end Sys2Proof.Machine
end

