-- ==== Sys2Proof/Machine/Engine.lean ====
section
/-! DEFINITION. The step engine (40_step_engine.md): fetch, decode, execute, and what a step returns. -/

namespace Sys2Proof.Machine

/-- Phase 1 (R81, R82): the bound, then the two bytes at pc and pc + 1, the first in the high bits. -/
def fetch (s : State) : Except Fault (List Byte) :=
  if 4094 < s.pc.toNat then .error (.fetchOutOfBounds s.pc)
  else .ok [s.readByte s.pc.toNat, s.readByte (s.pc.toNat + 1)]

/-- Phase 2 (R84): the instruction of the fetched bytes, or the fault that carries the raw opcode. -/
def decodeFetched (bytes : List Byte) : Except Fault Instr :=
  match decode bytes with
  | .ok (i, _) => .ok i
  | .error (.illegalOpcode op) => .error (.illegalOpcode op)
  | .error (.tooFewBytes _) => .error (.illegalOpcode 0)

/-- Phases 1 and 2. -/
def fetchDecode (s : State) : Except Fault Instr :=
  match fetch s with
  | .ok bytes => decodeFetched bytes
  | .error f => .error f

/-- Phase 3 as a function of the instruction and the state: `exec`, where `rand` is the free byte, or `execWith rand`,
where it is the byte given. -/
abbrev Executor := Instr → State → Result

/-- Execute with the byte `rand` that comes with this step (R80: used only by Cxkk); every other instruction has no use
for it. -/
def execWith (rand : Byte) : Executor
  | .rnd x kk, s => rndWith rand x kk s
  | i, s => exec i s

/-- Phases 1 to 3 (R80): a fault in fetch or decode is taken before anything executes (60_exceptions.md R241). -/
def runPhases (execute : Executor) (s : State) : Result :=
  match fetchDecode s with
  | .ok i => execute i s
  | .error f => takeFault s f

/-- A whole step (R80): a latched core does nothing and returns its fault (R90). -/
def runStep (execute : Executor) (s : State) : Result :=
  match s.fault with
  | some f => .fault f
  | none => retireResult (runPhases execute s)

/-- What a step returns to its driver (R80, 46_host_interface.md R215): `Ok(tone_tick)` or `Fault(f)`. A refusal has no
report; no instruction of this core is refused. -/
def runReport (execute : Executor) (s : State) : Option StepReport :=
  match s.fault with
  | some f => some (.fault f)
  | none =>
    match runPhases execute s with
    | .next t => some t.report
    | .fault f => some (.fault f)
    | .refused _ => none

/-- The driver's `step(rand)` (R80, 46_host_interface.md R215): the byte is supplied with the call. -/
def stepWith (rand : Byte) (s : State) : Result := runStep (execWith rand) s

/-- What `step(rand)` returns. -/
def stepReportWith (rand : Byte) (s : State) : Option StepReport := runReport (execWith rand) s

/-- What the step with the free byte returns (log entry 2). -/
def stepReport (s : State) : Option StepReport := runReport exec s

/-- The state with an opcode stored at pc and the latch open, so that the next step fetches and runs it. -/
def State.placeOpcode (s : State) (op : Opcode) : State :=
  { s.storeBytes s.pc.toNat (opcodeBytes op) with fault := none }

end Sys2Proof.Machine
end

