-- ==== Sys2Proof/Machine/Step.lean ====
section
/-! DEFINITION. The step, and the placing of a word where the next step fetches. -/

namespace Sys2Proof.Machine

/-- One step of the core (40_step_engine.md R80) where no byte is supplied with the call: `rand` is the free value of
this draw (log entry 2). The driver's `step(rand)` is `stepWith`. -/
def step (s : State) : Host.Outcome State Fault Refusal := runStep exec s

/-- `s` with the instruction word `w` of `nbits` bits stored at pc, high byte first (20_memory.md R42), and the fault
latch open, since a latched core fetches nothing. It stands for the driver's `load` (log entry 7). -/
def State.withFetchWord (s : State) (nbits w : Nat) : State := s.placeOpcode (BitVec.ofNat 16 (w % 2 ^ nbits))

end Sys2Proof.Machine
end

