-- ==== Sys2Proof/Machine/Driver.lean ====
section
/-! DEFINITION. The driver interface (46_host_interface.md): the transactions, their results and the protocol. -/

namespace Sys2Proof.Machine

/-- `initialize()`, also `reset()` (R210, R211): every item of state at its reset value, from any state. The parameter
FONT is the machine's own; the count of random draws goes on, so that a new session sees fresh bytes (log entry 2). -/
def State.initialise (s : State) : State := { State.initial s.font with randDraws := s.randDraws }

/-- The failure result of `load` (60_exceptions.md R239); it is no fault of a step. -/
inductive LoadError where
  | romTooLarge
  deriving DecidableEq, Repr

/-- The code of `RomTooLarge` (R239). -/
def LoadError.code : LoadError → Nat
  | .romTooLarge => 7

/-- `load(bytes)` (R212, R213): the image at 0x200 verbatim, or `RomTooLarge` with nothing copied. -/
def State.load (s : State) (bytes : List Byte) : Except LoadError State :=
  if bytes.length ≤ Config.romMax then .ok (s.storeBytes Config.progBase bytes) else .error .romTooLarge

/-- `set_keys(k[0..15])` (R214). -/
def State.setKeys (s : State) (k : Vector Bool 16) : State := { s with keys := k }

/-- A core and where its session stands in the protocol of R217. -/
inductive Session where
  /-- Before the first `initialize` the state is unspecified (10_state.md R26): only FONT is known. -/
  | off (font : Font)
  /-- Initialised, no step made yet: `load` is allowed. -/
  | ready (s : State)
  /-- At least one step has been made since the last `initialize`: `load` is not allowed. -/
  | running (s : State)
  deriving DecidableEq, Repr

/-- What a driver can do (R218). -/
inductive Transaction where
  | initialise
  | load (bytes : List Byte)
  | setKeys (k : Vector Bool 16)
  /-- `rand`, 8 bits, is sent with the call. -/
  | step (rand : Byte)
  | readOutputs
  deriving DecidableEq, Repr

/-- What the core returns (R218). -/
inductive Response where
  | done
  | loadFailed (e : LoadError)
  | stepped (r : StepReport)
  | outputs (fb : Framebuffer) (soundActive : Bool)
  deriving DecidableEq, Repr

/-- The state after an outcome: the next state, or the state as it was where the core is latched (R90). -/
def stateAfter (s : State) : Result → State
  | .next t => t
  | .fault _ => s
  | .refused _ => s

/-- The state after the driver's `step(rand)`. -/
def afterStepWith (rand : Byte) (s : State) : State := stateAfter s (stepWith rand s)

/-- The state after a step with the free byte (log entry 2). -/
def afterStep (s : State) : State := stateAfter s (step s)

/-- The core's state, where the session has one. -/
def Session.state : Session → Option State
  | .off _ => none
  | .ready s => some s
  | .running s => some s

/-- `initialize` from any session (R210). -/
def Session.initialise : Session → Session
  | .off font => .ready (State.initial font)
  | .ready s => .ready s.initialise
  | .running s => .ready s.initialise

/-- `load`: only after `initialize` and before any step (R217, R220). -/
def Session.load (bytes : List Byte) : Session → Option (Session × Response)
  | .off _ => none
  | .ready s =>
    match s.load bytes with
    | .ok t => some (.ready t, .done)
    | .error e => some (.ready s, .loadFailed e)
  | .running _ => none

/-- `set_keys`: any time after `initialize` (R214, R220). -/
def Session.setKeys (k : Vector Bool 16) : Session → Option (Session × Response)
  | .off _ => none
  | .ready s => some (.ready (s.setKeys k), .done)
  | .running s => some (.running (s.setKeys k), .done)

/-- `step(rand)`: any time after `initialize`, after a fault too (R215, R220). -/
def Session.step (rand : Byte) (c : Session) : Option (Session × Response) :=
  match c.state with
  | none => none
  | some s =>
    match stepReportWith rand s with
    | some r => some (.running (afterStepWith rand s), .stepped r)
    | none => none

/-- The output read: no side effect (R216). -/
def Session.readOutputs (c : Session) : Option (Session × Response) :=
  match c.state with
  | none => none
  | some s => some (c, .outputs s.fb s.soundActive)

/-- One transaction, `none` where the protocol is violated: the model gives that no transition (R220). -/
def Session.transact (c : Session) : Transaction → Option (Session × Response)
  | .initialise => some (c.initialise, .done)
  | .load bytes => c.load bytes
  | .setKeys k => c.setKeys k
  | .step rand => c.step rand
  | .readOutputs => c.readOutputs

end Sys2Proof.Machine
end

