-- ==== Sys2Proof/Safety.lean ====
section
/-! DEFINITION. The terms in which claims speak: the items of state and what leaves them unchanged, the whole-machine
invariant, a safe state, and the sprite's pixels in closed form. -/

namespace Sys2Proof.Machine

/-- Every item of state (10_state.md section 1), memory by byte, registers and stack by entry; the last two are the
model's own fields. -/
inductive Item where
  | byte (a : Nat)
  | reg (x : RegNum)
  | entry (k : Nat)
  | sp
  | pc
  | index
  | fb
  | keys
  | dt
  | st
  | latch
  | font
  | draws
  deriving DecidableEq, Repr

/-- Two states agree on an item; a byte of memory is compared through the model's read of one byte. -/
def Item.same (s t : State) : Item → Prop
  | .byte a => t.readByte a = s.readByte a
  | .reg x => t.reg x = s.reg x
  | .entry k => t.stackEntry k = s.stackEntry k
  | .sp => t.sp = s.sp
  | .pc => t.pc = s.pc
  | .index => t.index = s.index
  | .fb => t.fb = s.fb
  | .keys => t.keys = s.keys
  | .dt => t.dt = s.dt
  | .st => t.st = s.st
  | .latch => t.fault = s.fault
  | .font => t.font = s.font
  | .draws => t.randDraws = s.randDraws

/-- The frame: from `s` to `t`, every item but the listed ones is unchanged. -/
def Frame (writes : List Item) (s t : State) : Prop := ∀ it : Item, it ∉ writes → it.same s t

/-- The items of `n` bytes from address `a` on. -/
def byteItems (a n : Nat) : List Item := (List.range n).map (fun k => .byte (a + k))

/-- The items of the registers `V[0]..V[n-1]`. -/
def regItems (n : Nat) : List Item := (List.range n).map (fun k => .reg (BitVec.ofNat 4 k))

/-- The value of a flag in VF: 0x00 or 0x01 (42_alu.md R133). -/
def flagValue (c : Prop) [Decidable c] : Byte := if c then 1 else 0

/-- The invariant of 10_state.md R15, R18 and of memory's canonical form: sp in 0..16; every stack entry a pc that
passed the fetch bound; pc at most 0x10FE, the largest value an instruction can produce. -/
structure State.Inv (s : State) : Prop where
  mem : Memory.wf s.font s.mem
  sp : s.sp.toNat ≤ 16
  stack : ∀ k < 16, (s.stackEntry k).toNat ≤ 4094
  pc : s.pc.toNat ≤ 0x10FE

/-- A safe state: no fault is latched (60_exceptions.md R237: a faulted state is never a correct end of a run). -/
def State.safe (s : State) : Bool := s.fault.isNone

/-- The machine's FONT, which every session has (00_scope.md R6). -/
def Session.font : Session → Font
  | .off font => font
  | .ready s => s.font
  | .running s => s.font

/-- The sprite of `n` rows at `I`, drawn at (`V[x]`, `V[y]`), has a 1 bit whose flat index is `k` (44_display.md R174,
R175, R178). -/
def covers (s : State) (x y : RegNum) (n k : Nat) : Prop :=
  ∃ row < n, ∃ col < 8, (s.readByte (s.index.toNat + row)).getLsbD (7 - col) = true ∧
    ((s.reg y).toNat + row) * 64 + ((s.reg x).toNat + col) = k

/-- The key `k` is the lowest pressed one (45_keypad_timers.md R193). -/
def lowestPressed (s : State) (k : Nat) : Prop :=
  k < 16 ∧ s.key k = true ∧ ∀ j < k, s.key j = false

/-- The two states differ at most in stack entries at or above sp (10_state.md R17: such entries are unobservable). -/
def SameButStale (s s' : State) : Prop :=
  (∃ st, s' = { s with stack := st }) ∧ ∀ k < s.sp.toNat, s'.stackEntry k = s.stackEntry k

/-- The program counter after execute, where the instruction does not fault (the table of 40_step_engine.md R86). -/
def pcAfter (i : Instr) (s : State) : Word :=
  match i with
  | .ret => s.stackEntry (s.sp.toNat - 1) + 2
  | .jp nnn => nnn.setWidth 16
  | .call nnn => nnn.setWidth 16
  | .jpv0 nnn => nnn.setWidth 16 + (s.reg 0).setWidth 16
  | .sei x kk => if s.reg x = kk then s.pc + 4 else s.pc + 2
  | .snei x kk => if s.reg x ≠ kk then s.pc + 4 else s.pc + 2
  | .ser x y => if s.reg x = s.reg y then s.pc + 4 else s.pc + 2
  | .sner x y => if s.reg x ≠ s.reg y then s.pc + 4 else s.pc + 2
  | .skp x => if s.key (s.reg x).toNat = true then s.pc + 4 else s.pc + 2
  | .sknp x => if s.key (s.reg x).toNat = false then s.pc + 4 else s.pc + 2
  | .wkey _ => if ∃ k < 16, s.key k = true then s.pc + 2 else s.pc
  | .cls => s.pc + 2
  | .ldi _ _ => s.pc + 2
  | .addi _ _ => s.pc + 2
  | .mov _ _ => s.pc + 2
  | .or _ _ => s.pc + 2
  | .and _ _ => s.pc + 2
  | .xor _ _ => s.pc + 2
  | .add _ _ => s.pc + 2
  | .sub _ _ => s.pc + 2
  | .shl6 _ _ => s.pc + 2
  | .subf _ _ => s.pc + 2
  | .shle _ _ => s.pc + 2
  | .ldidx _ => s.pc + 2
  | .rnd _ _ => s.pc + 2
  | .drw _ _ _ => s.pc + 2
  | .lddt _ => s.pc + 2
  | .stdt _ => s.pc + 2
  | .stst _ => s.pc + 2
  | .addidx _ => s.pc + 2
  | .ldfont _ => s.pc + 2
  | .bcd _ => s.pc + 2
  | .stm _ => s.pc + 2
  | .ldm _ => s.pc + 2

/-- The items each instruction may write, where it does not fault (10_state.md R30). -/
def writesOf (i : Instr) (s : State) : List Item :=
  match i with
  | .cls => [.fb, .pc]
  | .ret => [.sp, .pc]
  | .jp _ => [.pc]
  | .call _ => [.entry s.sp.toNat, .sp, .pc]
  | .sei _ _ => [.pc]
  | .snei _ _ => [.pc]
  | .ser _ _ => [.pc]
  | .ldi x _ => [.reg x, .pc]
  | .addi x _ => [.reg x, .pc]
  | .mov x _ => [.reg x, .pc]
  | .or x _ => [.reg x, .pc]
  | .and x _ => [.reg x, .pc]
  | .xor x _ => [.reg x, .pc]
  | .add x _ => [.reg x, .reg VF, .pc]
  | .sub x _ => [.reg x, .reg VF, .pc]
  | .shl6 x _ => [.reg x, .reg VF, .pc]
  | .subf x _ => [.reg x, .reg VF, .pc]
  | .shle x _ => [.reg x, .reg VF, .pc]
  | .sner _ _ => [.pc]
  | .ldidx _ => [.index, .pc]
  | .jpv0 _ => [.pc]
  | .rnd x _ => [.reg x, .draws, .pc]
  | .drw _ _ _ => [.fb, .reg VF, .pc]
  | .skp _ => [.pc]
  | .sknp _ => [.pc]
  | .lddt x => [.reg x, .pc]
  | .wkey x => [.reg x, .pc]
  | .stdt _ => [.dt, .pc]
  | .stst _ => [.st, .pc]
  | .addidx _ => [.index, .reg VF, .pc]
  | .ldfont _ => [.index, .pc]
  | .bcd _ => .pc :: byteItems (s.effAddr 0) 3
  | .stm x => .pc :: byteItems (s.effAddr 0) (x.toNat + 1)
  | .ldm x => .pc :: regItems (x.toNat + 1)

/-- The faults an instruction can raise in execute (60_exceptions.md R230, R241), with the information recorded. -/
def faultOf (i : Instr) (s : State) : Option Fault :=
  match i with
  | .ret => if s.sp.toNat = 0 then some .stackUnderflow else none
  | .call _ => if s.sp.toNat = 16 then some .stackOverflow else none
  | .drw _ _ n => if 1 ≤ n ∧ 4095 < s.index.toNat + (n - 1) then some (.dataOutOfBounds (max s.index.toNat 4096)) else none
  | .bcd _ => if 4095 < s.index.toNat + 2 then some (.dataOutOfBounds (max s.index.toNat 4096)) else none
  | .stm x => if 4095 < s.index.toNat + x.toNat then some (.dataOutOfBounds (max s.index.toNat 4096)) else none
  | .ldm x => if 4095 < s.index.toNat + x.toNat then some (.dataOutOfBounds (max s.index.toNat 4096)) else none
  | .skp x => if 15 < (s.reg x).toNat then some (.keyIndexOutOfBounds (s.reg x)) else none
  | .sknp x => if 15 < (s.reg x).toNat then some (.keyIndexOutOfBounds (s.reg x)) else none
  | .cls => none
  | .jp _ => none
  | .sei _ _ => none
  | .snei _ _ => none
  | .ser _ _ => none
  | .ldi _ _ => none
  | .addi _ _ => none
  | .mov _ _ => none
  | .or _ _ => none
  | .and _ _ => none
  | .xor _ _ => none
  | .add _ _ => none
  | .sub _ _ => none
  | .shl6 _ _ => none
  | .subf _ _ => none
  | .shle _ _ => none
  | .sner _ _ => none
  | .ldidx _ => none
  | .jpv0 _ => none
  | .rnd _ _ => none
  | .lddt _ => none
  | .wkey _ => none
  | .stdt _ => none
  | .stst _ => none
  | .addidx _ => none
  | .ldfont _ => none

/-- A timer's value at the start of the decay phase (40_step_engine.md R88): as the instruction left it. -/
def dtAtDecay (i : Instr) (s : State) : Byte :=
  match i with
  | .stdt x => s.reg x
  | _ => s.dt

/-- The sound timer's value at the start of the decay phase (R88, R89). -/
def stAtDecay (i : Instr) (s : State) : Byte :=
  match i with
  | .stst x => s.reg x
  | _ => s.st

/-- The opcode lies in the illegal set, as 30_encoding.md R68 lists it. -/
def illegalSet (op : Opcode) : Bool :=
  match opTop op with
  | 0x0#4 => op != 0x00E0 && op != 0x00EE
  | 0x5#4 => opN op != 0
  | 0x8#4 => opN op == 0x8 || opN op == 0x9 || opN op == 0xA || opN op == 0xB || opN op == 0xC || opN op == 0xD
      || opN op == 0xF
  | 0x9#4 => opN op != 0
  | 0xE#4 => opKK op != 0x9E && opKK op != 0xA1
  | 0xF#4 => opKK op != 0x07 && opKK op != 0x0A && opKK op != 0x15 && opKK op != 0x18 && opKK op != 0x1E
      && opKK op != 0x29 && opKK op != 0x33 && opKK op != 0x55 && opKK op != 0x65
  | _ => false

end Sys2Proof.Machine
end

