-- ==== Sys2Proof/Certificates/Slice0/Obligations.lean ====
section
/-! DEFINITION. The statements for the provers. Each names, in its docstring, the rule of spec/ it formalises, or, where
it rests on a decision of the spec or of the model, that decision. -/

open Sys2Proof Sys2Proof.Machine

/-! ### Encoding (30_encoding.md) -/

/-- 30_encoding.md sections 2 and 3: decoding the word, and the two bytes, of a well-formed instruction gives it back. That
this holds of the field y of 8xy6 and 8xyE too is the model's choice: its syntax keeps the ignored field (log entry 21). -/
def Obligations.DecodeOfEncode : Prop :=
  ∀ i : Instr, i.wellFormed = true →
    decodeWord (encode i) = some i ∧ decode (encodeBytes i) = .ok (i, [])

/-- 30_encoding.md sections 2 and 3: a word that decodes is the word of the instruction it decodes to, which is well
formed. It holds of 8xy6 and 8xyE by the model's choice only (log entry 21, DESIGN CHOICE): the spec says that any y is the
same operation there (30_encoding.md section 4), and the model's syntax keeps the ignored y, so that the decoder drops no
bit. What the spec says of the operation is in `ShiftsLeftWithFlag`: y has no effect. -/
def Obligations.EncodeOfDecode : Prop :=
  ∀ (op : Opcode) (i : Instr), decodeWord op = some i → encode i = op ∧ i.wellFormed = true

/-- 30_encoding.md R64: legal exactly when the masked word matches one row, and the rows are pairwise disjoint; the row
is the decoded instruction's. -/
def Obligations.LegalExactlyInOneRow : Prop :=
  (∀ op : Opcode, ∀ row ∈ opcodeRows,
    (inRow op row = true ↔ ∃ i, decodeWord op = some i ∧ mnemonic i = row.1)) ∧
  opcodeRows.Pairwise (fun r r' => ∀ op : Opcode, ¬(inRow op r = true ∧ inRow op r' = true)) ∧
  (∀ op i, decodeWord op = some i → ∃ row ∈ opcodeRows, row.1 = mnemonic i)

/-- 30_encoding.md section 4 (the illegal set, which the spec marks as derived): exactly the listed words have no
instruction. -/
def Obligations.IllegalSetExact : Prop :=
  ∀ op : Opcode, decodeWord op = none ↔ illegalSet op = true

/-- 30_encoding.md section 2: words written out from the encodings decode to their instructions, one per family. The
y kept with SHL6 is the model's choice (log entry 21). -/
def Obligations.SpecWordsDecode : Prop :=
  decodeWord 0x00EE = some .ret ∧ decodeWord 0x220A = some (.call 0x20A) ∧
  decodeWord 0x6005 = some (.ldi 0x0 0x05) ∧ decodeWord 0x83A6 = some (.shl6 0x3 0xA) ∧
  decodeWord 0xA300 = some (.ldidx 0x300) ∧ decodeWord 0xF265 = some (.ldm 0x2) ∧
  decodeWord 0xD013 = some (.drw 0x0 0x1 3) ∧ decodeWord 0xE1A1 = some (.sknp 0x1) ∧
  decodeWord 0xF00A = some (.wkey 0x0)

/-! ### Reset and the invariant -/

/-- 70_reset_and_hazards.md R260: every item of state after reset, for whatever FONT; the state after reset is that of
the default FONT. -/
def Obligations.ResetValues : Prop :=
  (∃ font, State.reset = State.initial font) ∧
  ∀ font : Font,
    (∀ a : Nat, ∀ h : a < 80, (State.initial font).readByte a = font[a]) ∧
    (∀ a : Nat, 0x050 ≤ a → a ≤ 0xFFF → (State.initial font).readByte a = 0x00) ∧
    (∀ x : RegNum, (State.initial font).reg x = 0x00) ∧
    (∀ k : Nat, k < 16 → (State.initial font).stackEntry k = 0x0000) ∧
    (State.initial font).sp = 0 ∧ (State.initial font).pc = 0x0200 ∧ (State.initial font).index = 0x0000 ∧
    (∀ k : Nat, k < 2048 → (State.initial font).pixel k = false) ∧
    (∀ k : Nat, k < 16 → (State.initial font).key k = false) ∧
    (State.initial font).dt = 0 ∧ (State.initial font).st = 0 ∧
    (State.initial font).fault = none ∧ (State.initial font).soundActive = false

/-- 46_host_interface.md R210: in every session, before any other transaction and after a fault too, `initialize` is
done and leaves every item at its reset value and the latch at none; the loaded program is gone. -/
def Obligations.InitializeFromAnyState : Prop :=
  ∀ c : Session, ∃ t, c.transact .initialise = some (.ready t, .done) ∧
    (∀ a : Nat, ∀ h : a < 80, t.readByte a = c.font[a]) ∧
    (∀ a : Nat, 0x050 ≤ a → a ≤ 0xFFF → t.readByte a = 0x00) ∧
    (∀ x : RegNum, t.reg x = 0x00) ∧
    (∀ k : Nat, k < 16 → t.stackEntry k = 0x0000) ∧
    t.sp = 0 ∧ t.pc = 0x0200 ∧ t.index = 0x0000 ∧
    (∀ k : Nat, k < 2048 → t.pixel k = false) ∧
    (∀ k : Nat, k < 16 → t.key k = false) ∧
    t.dt = 0 ∧ t.st = 0 ∧ t.fault = none

/-- 10_state.md section 4 and 6: the invariant holds at reset. -/
def Obligations.ResetMeetsInvariant : Prop := State.reset.Inv

/-- 10_state.md section 4 and 6: every step, from any state that meets it, keeps the invariant: memory in canonical
form, sp in 0..16, stack entries at most 4094, pc at most 0x10FE. It holds of the step with the free byte (log entry 2) and
of the driver's `step(rand)` for every byte. -/
def Obligations.StepKeepsInvariant : Prop :=
  ∀ s t : State, s.Inv →
    (step s = .next t → t.Inv) ∧ (∀ rand, stepWith rand s = .next t → t.Inv)

/-! ### The step engine (40_step_engine.md) -/

/-- 20_memory.md R42: fetch reads the bytes at pc and pc + 1, the first in bits 15..8. -/
def Obligations.FetchIsBigEndian : Prop :=
  ∀ s : State, s.pc.toNat ≤ 4094 →
    fetch s = .ok [s.readByte s.pc.toNat, s.readByte (s.pc.toNat + 1)] ∧
    (opcodeOf (s.readByte s.pc.toNat) (s.readByte (s.pc.toNat + 1))).toNat =
      (s.readByte s.pc.toNat).toNat * 256 + (s.readByte (s.pc.toNat + 1)).toNat

/-- 40_step_engine.md section 1: with no fault latched and pc in range, if the bytes at pc decode to a well-formed
instruction, the step is the instruction's `exec` followed by phase 4 (`State.retire`: both timers decay unless a fault
was raised). The step takes no other path. -/
def Obligations.StepRunsDecodedInstruction : Prop :=
  ∀ (s : State) (i : Instr) (rest : List Byte), s.fault = none → s.pc.toNat ≤ 4094 →
    decode [s.readByte s.pc.toNat, s.readByte (s.pc.toNat + 1)] = .ok (i, rest) → i.wellFormed = true →
      step s = retireResult (exec i s) ∧
      ∀ t, exec i s = .next t →
        (t.fault = none → ∃ u, step s = .next u ∧ u.dt.toNat = t.dt.toNat - 1 ∧ u.st.toNat = t.st.toNat - 1 ∧
          Frame [.dt, .st] t u) ∧
        (∀ f, t.fault = some f → step s = .next t)

/-- The model's `State.withFetchWord` (log entry 7): the next step runs the placed instruction. -/
def Obligations.PlacedWordRunsNext : Prop :=
  ∀ (s : State) (i : Instr), s.pc.toNat ≤ 4094 → i.wellFormed = true →
    step (s.withFetchWord 16 (encode i).toNat) =
      retireResult (exec i (s.withFetchWord 16 (encode i).toNat))

/-- 40_step_engine.md section 2, 92_eei_decisions.md D5 and D3: a step from `pc > 4094` takes FetchOutOfBounds(pc) and
changes nothing but the latch. -/
def Obligations.FetchBoundFault : Prop :=
  ∀ s : State, s.fault = none → 4094 < s.pc.toNat →
    ∃ t, step s = .next t ∧ t.fault = some (.fetchOutOfBounds s.pc) ∧ Frame [.latch] s t ∧
      stepReport s = some (.fault (.fetchOutOfBounds s.pc))

/-- 40_step_engine.md section 3 and 92_eei_decisions.md D3: an opcode of the illegal set takes IllegalOpcode with the raw
word, whatever the rest of the state, and changes nothing but the latch; pc stays at it. -/
def Obligations.IllegalOpcodeFault : Prop :=
  ∀ s : State, s.fault = none → s.pc.toNat ≤ 4094 →
    illegalSet (s.readByte s.pc.toNat ++ s.readByte (s.pc.toNat + 1)) = true →
    ∃ t, step s = .next t ∧
      t.fault = some (.illegalOpcode (s.readByte s.pc.toNat ++ s.readByte (s.pc.toNat + 1))) ∧ Frame [.latch] s t ∧
      stepReport s = some (.fault (.illegalOpcode (s.readByte s.pc.toNat ++ s.readByte (s.pc.toNat + 1))))

/-- 92_eei_decisions.md D3 (40_step_engine.md section 6): a latched core answers its fault at every step, whatever byte
comes with it, and its state stays. The form of the answer is the model's choice, log entry 1. -/
def Obligations.LatchedCoreAnswersItsFault : Prop :=
  ∀ (s : State) (f : Fault), s.fault = some f →
    (step s = .fault f ∧ stepReport s = some (.fault f) ∧ afterStep s = s) ∧
    (∀ rand, stepWith rand s = .fault f ∧ stepReportWith rand s = some (.fault f) ∧ afterStepWith rand s = s)

/-- 92_eei_decisions.md D3 and D24 (60_exceptions.md section 2): a step that raises a fault leaves every item of state,
the timers too, as it was, but for the latch, and reports that fault; for every byte supplied with it too. -/
def Obligations.FaultsArePrecise : Prop :=
  ∀ (s t : State) (f : Fault), s.fault = none → t.fault = some f →
    (step s = .next t → t = s.raise f ∧ stepReport s = some (.fault f)) ∧
    (∀ rand, stepWith rand s = .next t → t = s.raise f ∧ stepReportWith rand s = some (.fault f))

/-- 60_exceptions.md section 3 (D29): in a state with sp in 0..16, execute raises exactly the fault that the list of
faults gives the instruction, with its recorded information, and no instruction raises another. -/
def Obligations.ExecuteFaultCauses : Prop :=
  ∀ (i : Instr) (s : State), s.sp.toNat ≤ 16 → s.fault = none →
    ∃ t, exec i s = .next t ∧ t.fault = faultOf i s ∧ (∀ f, faultOf i s = some f → t = s.raise f)

/-- 40_step_engine.md section 1: from a state with no fault latched every step answers a next state: no opcode, legal or
not, no data and no byte supplied stops the model (log entry 1). -/
def Obligations.UnlatchedStepAnswersNext : Prop :=
  ∀ s : State, s.fault = none →
    (∃ t r, step s = .next t ∧ stepReport s = some r ∧ (∀ f, r = .fault f ↔ t.fault = some f)) ∧
    (∀ rand, ∃ t r, stepWith rand s = .next t ∧ stepReportWith rand s = some r ∧
      (∀ f, r = .fault f ↔ t.fault = some f))

/-- 40_step_engine.md section 4 (the table of pc, with D32): pc after execute, for every instruction; a faulting
instruction leaves it. -/
def Obligations.PcAfterEveryInstruction : Prop :=
  ∀ (i : Instr) (s t : State), s.fault = none → exec i s = .next t →
    (t.fault = none → t.pc = pcAfter i s) ∧ (t.fault ≠ none → t.pc = s.pc)

/-- 10_state.md section 13 (who writes what, which the spec marks as derived): an instruction that raises nothing writes
only its own items, and keys are never written. -/
def Obligations.WritersOfEveryItem : Prop :=
  ∀ (i : Instr) (s t : State), s.fault = none → exec i s = .next t → t.fault = none →
    Frame (writesOf i s) s t ∧ t.keys = s.keys

/-- 40_step_engine.md section 5 (with D24): in every step that does not fault, whatever byte comes with it, each timer ends
one below what the instruction left, never below 0; only STDT and STST leave another value than they found. -/
def Obligations.TimersDecayEachStep : Prop :=
  ∀ (s t : State) (i : Instr), s.fault = none → fetchDecode s = .ok i → t.fault = none →
    (step s = .next t ∨ ∃ rand, stepWith rand s = .next t) →
    t.dt.toNat = (dtAtDecay i s).toNat - 1 ∧ t.st.toNat = (stAtDecay i s).toNat - 1

/-- 92_eei_decisions.md D19: the tone tick of a step that does not fault is 1 exactly when ST is 1 at the start of the
decay phase; a step that faults reports no tick; for every byte supplied with the step too. -/
def Obligations.ToneTickOnLastCount : Prop :=
  ∀ (s t : State) (i : Instr), s.fault = none → fetchDecode s = .ok i →
    (step s = .next t →
      (t.fault = none → stepReport s = some (.ok (decide (stAtDecay i s = 1)))) ∧
      (∀ f, t.fault = some f → stepReport s = some (.fault f))) ∧
    (∀ rand, stepWith rand s = .next t →
      (t.fault = none → stepReportWith rand s = some (.ok (decide (stAtDecay i s = 1)))) ∧
      (∀ f, t.fault = some f → stepReportWith rand s = some (.fault f)))

/-- 10_state.md section 6 and D28: stack entries at or above sp are unobservable: two states that differ only there take
steps, with the same byte supplied, with the same report to states that again differ only there. -/
def Obligations.StaleStackUnobservable : Prop :=
  ∀ s s' : State, s.sp.toNat ≤ 16 → SameButStale s s' →
    (stepReport s = stepReport s' ∧ SameButStale (afterStep s) (afterStep s')) ∧
    (∀ rand, stepReportWith rand s = stepReportWith rand s' ∧
      SameButStale (afterStepWith rand s) (afterStepWith rand s'))

/-- 42_alu.md section 5 and D13: only RND sees the random bytes: from two states that differ only in the draw count
every other instruction goes to states that differ only in it. -/
def Obligations.OnlyRandomReadsDraws : Prop :=
  ∀ (i : Instr) (s : State) (d : Nat), (∀ x kk, i ≠ .rnd x kk) →
    ∃ t, exec i s = .next t ∧ exec i { s with randDraws := d } = .next { t with randDraws := d }

/-! ### Control flow (41_control_flow.md) -/

/-- 41_control_flow.md R102; a target above 4094 faults at the next fetch. -/
def Obligations.JumpAbsolute : Prop :=
  ∀ (nnn : Addr12) (s : State),
    ∃ t, exec (.jp nnn) s = .next t ∧ t.pc.toNat = nnn.toNat ∧ Frame [.pc] s t ∧
      (4094 < t.pc.toNat → ∃ f, fetch t = .error f)

/-- 41_control_flow.md R108: the register is V0 whatever the word, the sum is not masked, and a sum above 4094 faults at
the next fetch. -/
def Obligations.JumpPlusV0 : Prop :=
  ∀ (nnn : Addr12) (s : State),
    ∃ t, exec (.jpv0 nnn) s = .next t ∧ t.pc.toNat = nnn.toNat + (s.reg 0x0).toNat ∧ t.pc.toNat ≤ 0x10FE ∧
      Frame [.pc] s t ∧ (4094 < t.pc.toNat → ∃ f, fetch t = .error f)

/-- 41_control_flow.md R104 and R105. -/
def Obligations.SkipsOnImmediate : Prop :=
  ∀ (x : RegNum) (kk : Byte) (s : State),
    (∃ t, exec (.sei x kk) s = .next t ∧ Frame [.pc] s t ∧
      (s.reg x = kk → t.pc = s.pc + 4) ∧ (s.reg x ≠ kk → t.pc = s.pc + 2)) ∧
    (∃ t, exec (.snei x kk) s = .next t ∧ Frame [.pc] s t ∧
      (s.reg x ≠ kk → t.pc = s.pc + 4) ∧ (s.reg x = kk → t.pc = s.pc + 2))

/-- 41_control_flow.md R106 and R107, with the illegal low nibbles they name. -/
def Obligations.SkipsOnRegisters : Prop :=
  (∀ (x y : RegNum) (s : State),
    (∃ t, exec (.ser x y) s = .next t ∧ Frame [.pc] s t ∧
      (s.reg x = s.reg y → t.pc = s.pc + 4) ∧ (s.reg x ≠ s.reg y → t.pc = s.pc + 2)) ∧
    (∃ t, exec (.sner x y) s = .next t ∧ Frame [.pc] s t ∧
      (s.reg x ≠ s.reg y → t.pc = s.pc + 4) ∧ (s.reg x = s.reg y → t.pc = s.pc + 2))) ∧
  (∀ (x y : RegNum) (n : BitVec 4), n ≠ 0 →
    decodeWord (0x5#4 ++ (x ++ (y ++ n))) = none ∧ decodeWord (0x9#4 ++ (x ++ (y ++ n))) = none)

/-- 41_control_flow.md section 2: CALL pushes its own address where an entry is free; with all 16 in use it takes
StackOverflow and nothing else changes (D7). -/
def Obligations.CallPushesOwnAddress : Prop :=
  ∀ (nnn : Addr12) (s : State),
    (s.sp.toNat < 16 → ∃ t, exec (.call nnn) s = .next t ∧ t.stackEntry s.sp.toNat = s.pc ∧
      t.sp.toNat = s.sp.toNat + 1 ∧ t.pc.toNat = nnn.toNat ∧ Frame [.entry s.sp.toNat, .sp, .pc] s t) ∧
    (s.sp.toNat = 16 → ∃ t, exec (.call nnn) s = .next t ∧ t.fault = some .stackOverflow ∧ Frame [.latch] s t)

/-- 41_control_flow.md section 2: RET resumes 2 past the popped address and leaves the entry in place; with the stack
empty it takes StackUnderflow and nothing else changes (D7, D28). -/
def Obligations.ReturnPopsAndAddsTwo : Prop :=
  ∀ s : State,
    (1 ≤ s.sp.toNat → s.sp.toNat ≤ 16 → ∃ t, exec .ret s = .next t ∧ t.sp.toNat = s.sp.toNat - 1 ∧
      t.pc = s.stackEntry (s.sp.toNat - 1) + 2 ∧ Frame [.sp, .pc] s t) ∧
    (s.sp.toNat = 0 → ∃ t, exec .ret s = .next t ∧ t.fault = some .stackUnderflow ∧ Frame [.latch] s t)

/-- 41_control_flow.md section 4 (the call-return law, which the spec marks as derived). -/
def Obligations.CallThenReturnResumes : Prop :=
  ∀ (nnn : Addr12) (s : State), s.sp.toNat < 16 →
    ∃ t, exec (.call nnn) s = .next t ∧
      ∀ u : State, u.sp = t.sp → u.stackEntry s.sp.toNat = t.stackEntry s.sp.toNat →
        ∃ w, exec .ret u = .next w ∧ w.pc = s.pc + 2 ∧ w.sp = s.sp

/-! ### Arithmetic and logic (42_alu.md) -/

/-- 42_alu.md R121 and R122: no flag but where x is 15 itself. -/
def Obligations.LoadAndAddImmediate : Prop :=
  ∀ (x : RegNum) (kk : Byte) (s : State),
    (∃ t, exec (.ldi x kk) s = .next t ∧ t.reg x = kk ∧ t.pc = s.pc + 2 ∧ Frame [.reg x, .pc] s t) ∧
    (∃ t, exec (.addi x kk) s = .next t ∧ (t.reg x).toNat = ((s.reg x).toNat + kk.toNat) % 256 ∧
      t.pc = s.pc + 2 ∧ Frame [.reg x, .pc] s t)

/-- 42_alu.md R123 to R126, bit by bit: no flag but where x is 15 itself. -/
def Obligations.MoveAndLogic : Prop :=
  ∀ (x y : RegNum) (s : State),
    (∃ t, exec (.mov x y) s = .next t ∧ t.reg x = s.reg y ∧ t.pc = s.pc + 2 ∧ Frame [.reg x, .pc] s t) ∧
    (∃ t, exec (.or x y) s = .next t ∧ t.pc = s.pc + 2 ∧ Frame [.reg x, .pc] s t ∧
      ∀ j < 8, (t.reg x).getLsbD j = ((s.reg x).getLsbD j || (s.reg y).getLsbD j)) ∧
    (∃ t, exec (.and x y) s = .next t ∧ t.pc = s.pc + 2 ∧ Frame [.reg x, .pc] s t ∧
      ∀ j < 8, (t.reg x).getLsbD j = ((s.reg x).getLsbD j && (s.reg y).getLsbD j)) ∧
    (∃ t, exec (.xor x y) s = .next t ∧ t.pc = s.pc + 2 ∧ Frame [.reg x, .pc] s t ∧
      ∀ j < 8, (t.reg x).getLsbD j = ((s.reg x).getLsbD j != (s.reg y).getLsbD j))

/-- 42_alu.md section 4 with D2 (operands sampled, flag first, result second: with x = 15 the result stays): ADD. -/
def Obligations.AddWithCarryFlag : Prop :=
  ∀ (x y : RegNum) (s : State),
    ∃ t, exec (.add x y) s = .next t ∧ (t.reg x).toNat = ((s.reg x).toNat + (s.reg y).toNat) % 256 ∧
      (x ≠ VF → t.reg VF = flagValue ((s.reg x).toNat + (s.reg y).toNat > 255)) ∧
      t.pc = s.pc + 2 ∧ Frame [.reg x, .reg VF, .pc] s t

/-- 42_alu.md section 4 with D2 and conflicts C2 and C3: SUB and SUBF leave the same difference, with strict and opposite
comparisons as flags. -/
def Obligations.SubtractWithStrictFlag : Prop :=
  ∀ (x y : RegNum) (s : State),
    (∃ t, exec (.sub x y) s = .next t ∧ ((t.reg x).toNat : Int) = ((s.reg x).toNat - (s.reg y).toNat : Int) % 256 ∧
      (x ≠ VF → t.reg VF = flagValue ((s.reg x).toNat > (s.reg y).toNat)) ∧
      t.pc = s.pc + 2 ∧ Frame [.reg x, .reg VF, .pc] s t) ∧
    (∃ t, exec (.subf x y) s = .next t ∧ ((t.reg x).toNat : Int) = ((s.reg x).toNat - (s.reg y).toNat : Int) % 256 ∧
      (x ≠ VF → t.reg VF = flagValue ((s.reg y).toNat > (s.reg x).toNat)) ∧
      t.pc = s.pc + 2 ∧ Frame [.reg x, .reg VF, .pc] s t)

/-- 42_alu.md section 4 with D2 and D26: SHL6 and SHLE both shift left; the flag is old bit 0 and old bit 7. The field y
of the word has no effect (30_encoding.md section 4). -/
def Obligations.ShiftsLeftWithFlag : Prop :=
  ∀ (x y : RegNum) (s : State),
    (∃ t, exec (.shl6 x y) s = .next t ∧ (t.reg x).toNat = (s.reg x).toNat * 2 % 256 ∧
      (x ≠ VF → t.reg VF = flagValue ((s.reg x).toNat % 2 = 1)) ∧
      t.pc = s.pc + 2 ∧ Frame [.reg x, .reg VF, .pc] s t) ∧
    (∃ t, exec (.shle x y) s = .next t ∧ (t.reg x).toNat = (s.reg x).toNat * 2 % 256 ∧
      (x ≠ VF → t.reg VF = flagValue ((s.reg x).toNat ≥ 128)) ∧
      t.pc = s.pc + 2 ∧ Frame [.reg x, .reg VF, .pc] s t)

/-- 42_alu.md section 5 with D13: V[x] is the step's random byte masked by kk, for every value of that byte; in the
machine the byte is the free value of this draw (log entry 2). So bits where kk has 0 are 0, and kk = 0 gives 0. -/
def Obligations.RandomMasked : Prop :=
  ∀ (x : RegNum) (kk : Byte) (s : State),
    (∀ rand : Byte, ∃ t, rndWith rand x kk s = .next t ∧ t.reg x = rand &&& kk ∧ t.pc = s.pc + 2 ∧
      Frame [.reg x, .draws, .pc] s t) ∧
    (∃ t, exec (.rnd x kk) s = .next t ∧ t.reg x = Config.randomByte s.randDraws &&& kk ∧
      (t.reg x).toNat ≤ kk.toNat ∧ (∀ j < 8, kk.getLsbD j = false → (t.reg x).getLsbD j = false) ∧
      t.randDraws = s.randDraws + 1 ∧ t.pc = s.pc + 2 ∧ Frame [.reg x, .draws, .pc] s t)

/-! ### The index register and memory (43_index_memory.md) -/

/-- 43_index_memory.md R151 and R153: the whole byte is multiplied. -/
def Obligations.IndexLoads : Prop :=
  (∀ (nnn : Addr12) (s : State),
    ∃ t, exec (.ldidx nnn) s = .next t ∧ t.index.toNat = nnn.toNat ∧ t.pc = s.pc + 2 ∧ Frame [.index, .pc] s t) ∧
  (∀ (x : RegNum) (s : State),
    ∃ t, exec (.ldfont x) s = .next t ∧ t.index.toNat = (s.reg x).toNat * 5 ∧ t.pc = s.pc + 2 ∧
      Frame [.index, .pc] s t)

/-- 43_index_memory.md section 2 with D15 and D2: the flag is the comparison of the unwrapped sum with 0xFFF, also
where x is 15; I is not masked to 12 bits. -/
def Obligations.AddIndexWithFlag : Prop :=
  ∀ (x : RegNum) (s : State),
    ∃ t, exec (.addidx x) s = .next t ∧ t.index.toNat = (s.index.toNat + (s.reg x).toNat) % 65536 ∧
      t.reg VF = flagValue (s.index.toNat + (s.reg x).toNat > 0xFFF) ∧ t.pc = s.pc + 2 ∧
      Frame [.index, .reg VF, .pc] s t

/-- 43_index_memory.md section 3: BCD stores the three decimal digits, hundreds first, and changes no other byte;
within bounds it completes (D6). -/
def Obligations.BcdStoresDigits : Prop :=
  ∀ (x : RegNum) (s : State), s.index.toNat + 2 ≤ 4095 →
    ∃ t, exec (.bcd x) s = .next t ∧
      (t.readByte s.index.toNat).toNat * 100 + (t.readByte (s.index.toNat + 1)).toNat * 10 +
        (t.readByte (s.index.toNat + 2)).toNat = (s.reg x).toNat ∧
      (t.readByte s.index.toNat).toNat ≤ 2 ∧ (t.readByte (s.index.toNat + 1)).toNat ≤ 9 ∧
      (t.readByte (s.index.toNat + 2)).toNat ≤ 9 ∧ t.pc = s.pc + 2 ∧
      Frame (.pc :: byteItems (s.effAddr 0) 3) s t

/-- 43_index_memory.md section 3 and D6: STM stores V[k] at I + k for k in 0..x, and no other byte. -/
def Obligations.StoreRegistersBlock : Prop :=
  ∀ (x : RegNum) (s : State), s.index.toNat + x.toNat ≤ 4095 →
    ∃ t, exec (.stm x) s = .next t ∧
      (∀ r : RegNum, r.toNat ≤ x.toNat → t.readByte (s.index.toNat + r.toNat) = s.reg r) ∧
      t.pc = s.pc + 2 ∧ Frame (.pc :: byteItems (s.effAddr 0) (x.toNat + 1)) s t

/-- 43_index_memory.md section 3 and D6: LDM loads V[k] from I + k for k in 0..x, and no other register. -/
def Obligations.LoadRegistersBlock : Prop :=
  ∀ (x : RegNum) (s : State), s.index.toNat + x.toNat ≤ 4095 →
    ∃ t, exec (.ldm x) s = .next t ∧
      (∀ r : RegNum, r.toNat ≤ x.toNat → t.reg r = s.readByte (s.index.toNat + r.toNat)) ∧
      (∀ r : RegNum, x.toNat < r.toNat → t.reg r = s.reg r) ∧
      t.pc = s.pc + 2 ∧ Frame (.pc :: regItems (x.toNat + 1)) s t

/-- 43_index_memory.md section 3 and D30 (I stays): a block stored and loaded back leaves every register as it was. -/
def Obligations.StoreThenLoadBlock : Prop :=
  ∀ (x : RegNum) (s : State), s.index.toNat + x.toNat ≤ 4095 →
    ∃ t u, exec (.stm x) s = .next t ∧ exec (.ldm x) t = .next u ∧ (∀ r, u.reg r = s.reg r) ∧ u.index = s.index ∧
      (∀ a, u.readByte a = t.readByte a)

/-- 20_memory.md section 5 and D6: an access set that leaves the address space takes DataOutOfBounds(max(I, 4096)), and
nothing but the latch changes: no partial store, load or draw. -/
def Obligations.DataBoundFaults : Prop :=
  ∀ (x y : RegNum) (n : Nat) (s : State),
    (4095 < s.index.toNat + 2 →
      ∃ t, exec (.bcd x) s = .next t ∧ t.fault = some (.dataOutOfBounds (max s.index.toNat 4096)) ∧ Frame [.latch] s t) ∧
    (4095 < s.index.toNat + x.toNat →
      (∃ t, exec (.stm x) s = .next t ∧ t.fault = some (.dataOutOfBounds (max s.index.toNat 4096)) ∧
        Frame [.latch] s t) ∧
      (∃ t, exec (.ldm x) s = .next t ∧ t.fault = some (.dataOutOfBounds (max s.index.toNat 4096)) ∧
        Frame [.latch] s t)) ∧
    (1 ≤ n → 4095 < s.index.toNat + (n - 1) →
      ∃ t, exec (.drw x y n) s = .next t ∧ t.fault = some (.dataOutOfBounds (max s.index.toNat 4096)) ∧
        Frame [.latch] s t)

/-- 20_memory.md section 9 (which the spec marks as derived): bytes that STM stores where the next instruction is fetched
are what the next fetch reads. -/
def Obligations.StoresSeenByNextFetch : Prop :=
  ∀ (x : RegNum) (s : State) (k : Nat), s.index.toNat + x.toNat ≤ 4095 → k + 1 ≤ x.toNat →
    s.pc.toNat + 2 = s.index.toNat + k →
    ∃ t, exec (.stm x) s = .next t ∧
      fetch t = .ok [s.reg (BitVec.ofNat 4 k), s.reg (BitVec.ofNat 4 (k + 1))]

/-! ### Display (44_display.md) -/

/-- 44_display.md R170: every pixel 0, VF not written; 0x00E0 is the only word of CLS, and every other 0x0nnn except
0x00EE has no instruction. -/
def Obligations.ClearScreen : Prop :=
  (∀ s : State, ∃ t, exec .cls s = .next t ∧ (∀ k < 2048, t.pixel k = false) ∧ t.pc = s.pc + 2 ∧
    Frame [.fb, .pc] s t) ∧
  (∀ op : Opcode, decodeWord op = some .cls ↔ op = 0x00E0) ∧
  (∀ nnn : Addr12, nnn ≠ 0x0E0 → nnn ≠ 0x0EE → decodeWord (0x0#4 ++ nnn) = none)

/-- 44_display.md section 2: the closed form of DRW, with the decisions D2, D6, D9, D10 and D11: a pixel is toggled
exactly when a sprite bit is aimed at it, VF is 1 exactly when such a pixel was lit, and 0 otherwise (also for n = 0);
pixels beyond index 2047 are dropped. Within bounds it completes. -/
def Obligations.DrawClosedForm : Prop :=
  ∀ (x y : RegNum) (n : Nat) (s : State), n = 0 ∨ s.index.toNat + (n - 1) ≤ 4095 →
    ∃ t, exec (.drw x y n) s = .next t ∧
      (∀ k < 2048, covers s x y n k → t.pixel k = !s.pixel k) ∧
      (∀ k < 2048, ¬covers s x y n k → t.pixel k = s.pixel k) ∧
      ((∃ k < 2048, covers s x y n k ∧ s.pixel k = true) → t.reg VF = 1) ∧
      ((¬∃ k < 2048, covers s x y n k ∧ s.pixel k = true) → t.reg VF = 0) ∧
      t.pc = s.pc + 2 ∧ Frame [.fb, .reg VF, .pc] s t

/-- 44_display.md section 2 (self-inverse, which the spec marks as derived): where neither coordinate register is VF, the
same draw twice restores the framebuffer, and the second reports a collision exactly when some covered pixel was dark
before the first. -/
def Obligations.DrawTwiceRestores : Prop :=
  ∀ (x y : RegNum) (n : Nat) (s : State), x ≠ VF → y ≠ VF → (n = 0 ∨ s.index.toNat + (n - 1) ≤ 4095) →
    ∃ t u, exec (.drw x y n) s = .next t ∧ exec (.drw x y n) t = .next u ∧ u.fb = s.fb ∧
      ((∃ k < 2048, covers s x y n k ∧ s.pixel k = false) → u.reg VF = 1) ∧
      ((¬∃ k < 2048, covers s x y n k ∧ s.pixel k = false) → u.reg VF = 0)

/-- 92_eei_decisions.md D9: a sprite whose top row is 32 or more is entirely clipped: the framebuffer stays and VF is 0. -/
def Obligations.DrawBelowScreenClipped : Prop :=
  ∀ (x y : RegNum) (n : Nat) (s : State), n = 0 ∨ s.index.toNat + (n - 1) ≤ 4095 → 32 ≤ (s.reg y).toNat →
    ∃ t, exec (.drw x y n) s = .next t ∧ t.fb = s.fb ∧ t.reg VF = 0 ∧ t.pc = s.pc + 2 ∧
      Frame [.reg VF, .pc] s t

/-! ### Keypad and timers (45_keypad_timers.md) -/

/-- 45_keypad_timers.md section 1, with D8 for V[x] above 15: the key skips test the level of key V[x]; a value that is
no key takes KeyIndexOutOfBounds and changes nothing but the latch. -/
def Obligations.KeySkips : Prop :=
  ∀ (x : RegNum) (s : State),
    ((s.reg x).toNat ≤ 15 →
      (∃ t, exec (.skp x) s = .next t ∧ Frame [.pc] s t ∧
        (s.key (s.reg x).toNat = true → t.pc = s.pc + 4) ∧ (s.key (s.reg x).toNat = false → t.pc = s.pc + 2)) ∧
      (∃ t, exec (.sknp x) s = .next t ∧ Frame [.pc] s t ∧
        (s.key (s.reg x).toNat = false → t.pc = s.pc + 4) ∧ (s.key (s.reg x).toNat = true → t.pc = s.pc + 2))) ∧
    (15 < (s.reg x).toNat →
      (∃ t, exec (.skp x) s = .next t ∧ t.fault = some (.keyIndexOutOfBounds (s.reg x)) ∧ Frame [.latch] s t) ∧
      (∃ t, exec (.sknp x) s = .next t ∧ t.fault = some (.keyIndexOutOfBounds (s.reg x)) ∧ Frame [.latch] s t))

/-- 45_keypad_timers.md section 2, with D12 for several keys: with a key pressed WKEY writes the lowest one's index. -/
def Obligations.WaitKeyTakesLowest : Prop :=
  ∀ (x : RegNum) (s : State) (k : Nat), lowestPressed s k →
    ∃ t, exec (.wkey x) s = .next t ∧ (t.reg x).toNat = k ∧ t.pc = s.pc + 2 ∧ Frame [.reg x, .pc] s t

/-- 45_keypad_timers.md section 2: with no key pressed WKEY writes nothing, pc included; the step it is in completes and
the timers still decay. -/
def Obligations.WaitKeyWaits : Prop :=
  ∀ (x : RegNum) (s : State), (∀ k < 16, s.key k = false) →
    exec (.wkey x) s = .next s ∧
    (s.fault = none → fetchDecode s = .ok (.wkey x) →
      ∃ t, step s = .next t ∧ t.pc = s.pc ∧ t.dt.toNat = s.dt.toNat - 1 ∧ t.st.toNat = s.st.toNat - 1 ∧
        Frame [.dt, .st] s t)

/-- 45_keypad_timers.md R194 and R195: LDDT reads DT before the step's decay; STDT's value is decayed in its own step. -/
def Obligations.DelayTimerAccess : Prop :=
  ∀ (x : RegNum) (s : State), s.fault = none →
    (∃ t, exec (.lddt x) s = .next t ∧ t.reg x = s.dt ∧ t.pc = s.pc + 2 ∧ Frame [.reg x, .pc] s t ∧
      t.retire.reg x = s.dt ∧ t.retire.dt.toNat = s.dt.toNat - 1) ∧
    (∃ t, exec (.stdt x) s = .next t ∧ t.dt = s.reg x ∧ t.pc = s.pc + 2 ∧ Frame [.dt, .pc] s t ∧
      t.retire.dt.toNat = (s.reg x).toNat - 1)

/-- 45_keypad_timers.md section 3: STST's value is decayed in its own step, and a value of 1 ticks in it (D19). -/
def Obligations.SoundTimerWrite : Prop :=
  ∀ (x : RegNum) (s : State), s.fault = none →
    ∃ t, exec (.stst x) s = .next t ∧ t.st = s.reg x ∧ t.pc = s.pc + 2 ∧ Frame [.st, .pc] s t ∧
      t.retire.st.toNat = (s.reg x).toNat - 1 ∧ (t.report = .ok true ↔ s.reg x = 1)

/-- 45_keypad_timers.md section 3 (the timer reading law, which the spec marks as derived), for the step right after: STDT
of v, then LDDT, reads v - 1. -/
def Obligations.DelaySetThenRead : Prop :=
  ∀ (x y : RegNum) (s : State), s.fault = none →
    ∃ t u, exec (.stdt x) s = .next t ∧ exec (.lddt y) t.retire = .next u ∧
      (u.reg y).toNat = (s.reg x).toNat - 1 ∧ u.retire.dt.toNat = (s.reg x).toNat - 2

/-! ### The driver (46_host_interface.md) -/

/-- 46_host_interface.md R212: an image of at most 3584 bytes is copied verbatim to 0x200, and nothing else changes. -/
def Obligations.LoadCopiesImage : Prop :=
  ∀ (s : State) (bytes : List Byte), bytes.length ≤ 3584 →
    ∃ t, (Session.ready s).transact (.load bytes) = some (.ready t, .done) ∧
      (∀ k : Nat, ∀ h : k < bytes.length, t.readByte (0x200 + k) = bytes[k]) ∧
      Frame (byteItems 0x200 bytes.length) s t

/-- 92_eei_decisions.md D21: a longer image is refused with RomTooLarge, nothing is copied, the latch is not set, and the
driver may load again. -/
def Obligations.LongImageRefused : Prop :=
  ∀ (s : State) (bytes : List Byte), 3584 < bytes.length →
    s.load bytes = .error .romTooLarge ∧
    (Session.ready s).transact (.load bytes) = some (.ready s, .loadFailed .romTooLarge)

/-- 46_host_interface.md section 1: the keypad write sets all sixteen keys and nothing else. -/
def Obligations.SetKeysWritesAll : Prop :=
  ∀ (s : State) (k : Vector Bool 16),
    (∀ j : Nat, ∀ h : j < 16, (s.setKeys k).key j = k[j]) ∧ Frame [.keys] s (s.setKeys k)

/-- 92_eei_decisions.md D22: out of protocol there is no transition: nothing but `initialize` before the first
`initialize`, and no `load` after a step. In protocol there always is one. -/
def Obligations.ProtocolHasNoOtherTransition : Prop :=
  ∀ (c : Session) (tr : Transaction),
    (c.transact tr = none ↔
      ((∃ font, c = .off font) ∧ tr ≠ .initialise) ∨ ((∃ s, c = .running s) ∧ ∃ bytes, tr = .load bytes))

/-- 46_host_interface.md section 1 and 2, 40_step_engine.md section 1 and D13: the driver supplies `rand` with each call of
`step`, in every initialised session, latched or not. An RND of that step uses the byte and adds one to the model's own
count of draws (log entry 2); every other step has no use for the byte;
so one state can be stepped with any two bytes. The step without a byte is the model's, with its free value (log entry 2):
it is `step(rand)` for that value. -/
def Obligations.DriverSuppliesRandomByte : Prop :=
  ∀ (c : Session) (s : State) (rand : Byte), c.state = some s →
    (∃ r, stepReportWith rand s = some r ∧
      c.transact (.step rand) = some (.running (afterStepWith rand s), .stepped r)) ∧
    (∀ f, s.fault = some f → c.transact (.step rand) = some (.running s, .stepped (.fault f))) ∧
    (∀ x kk, s.fault = none → fetchDecode s = .ok (.rnd x kk) →
      ∃ t, stepWith rand s = .next t ∧ t.reg x = rand &&& kk ∧ t.pc = s.pc + 2 ∧ t.dt.toNat = s.dt.toNat - 1 ∧
        t.st.toNat = s.st.toNat - 1 ∧ t.randDraws = s.randDraws + 1 ∧
        Frame [.reg x, .draws, .pc, .dt, .st] s t) ∧
    ((∀ x kk, fetchDecode s ≠ .ok (.rnd x kk)) → stepWith rand s = step s ∧ stepReportWith rand s = stepReport s) ∧
    stepWith (Config.randomByte s.randDraws) s = step s
end

