-- ==== Sys2Proof/Laws/Memory.lean ====
section
/-! SUPPORT. Memory: a read after a write, and the canonical form. -/

namespace Sys2Proof.Machine

variable (font : Font)

theorem Memory.read_erase (m : Memory) (a a' : Nat) :
    Memory.read font (Memory.erase m a) a' =
      if a' = a then Memory.unlisted font a else Memory.read font m a' := by
  induction m with
  | nil => by_cases h : a' = a <;> simp [Memory.erase, Memory.read, h]
  | cons c m ih =>
    obtain ⟨k, b⟩ := c
    by_cases hk : k = a
    · subst hk
      have : Memory.erase ((k, b) :: m) k = Memory.erase m k := by simp [Memory.erase]
      rw [this, ih]
      by_cases h : a' = k
      · simp [h]
      · simp [h, Memory.read, Ne.symm h]
    · have : Memory.erase ((k, b) :: m) a = (k, b) :: Memory.erase m a := by simp [Memory.erase, hk]
      rw [this, Memory.read, ih, Memory.read]
      by_cases h : k = a'
      · subst h; simp [hk]
      · simp [h]

theorem Memory.read_insert (m : Memory) (a a' : Nat) (b : Byte) (h : ∀ c ∈ m, c.1 ≠ a) :
    Memory.read font (Memory.insert a b m) a' = if a' = a then b else Memory.read font m a' := by
  induction m with
  | nil => simp [Memory.insert, Memory.read, eq_comm]
  | cons c m ih =>
    obtain ⟨k, d⟩ := c
    have hk : k ≠ a := h (k, d) (by simp)
    have ih := ih (fun c hc => h c (List.mem_cons_of_mem _ hc))
    unfold Memory.insert
    split
    · simp [Memory.read, eq_comm]
    · rw [Memory.read, ih, Memory.read]
      by_cases h' : k = a'
      · subst h'; simp [hk]
      · simp [h']

theorem Memory.not_mem_erase (m : Memory) (a : Nat) : ∀ c ∈ Memory.erase m a, c.1 ≠ a := by
  intro c hc
  simpa using (List.mem_filter.mp hc).2

/-- A read after a write: the byte written at its address, every other byte as before. -/
theorem Memory.read_write (m : Memory) (a a' : Nat) (b : Byte) :
    Memory.read font (Memory.write font m a b) a' = if a' = a then b else Memory.read font m a' := by
  unfold Memory.write
  split
  · rename_i h
    rw [Memory.read_erase, h]
  · rw [Memory.read_insert font _ a a' b (Memory.not_mem_erase m a), Memory.read_erase]
    by_cases h : a' = a <;> simp [h]

theorem Memory.wf_nil : Memory.wf font [] := ⟨List.Pairwise.nil, by simp⟩

theorem Memory.wf_erase {m : Memory} (a : Nat) (h : Memory.wf font m) : Memory.wf font (Memory.erase m a) :=
  ⟨h.1.filter _, fun c hc => h.2 c (List.mem_filter.mp hc).1⟩

theorem Memory.mem_insert {m : Memory} {a : Nat} {b : Byte} {c : Host.Cell}
    (h : c ∈ Memory.insert a b m) : c = (a, b) ∨ c ∈ m := by
  induction m with
  | nil => simpa [Memory.insert] using h
  | cons d m ih =>
    unfold Memory.insert at h
    split at h
    · simpa using h
    · rcases List.mem_cons.mp h with h | h
      · exact .inr (by simp [h])
      · rcases ih h with h | h
        · exact .inl h
        · exact .inr (by simp [h])

theorem Memory.wf_insert {m : Memory} {a : Nat} {b : Byte} (hm : Memory.wf font m) (ha : a < 4096)
    (hb : b ≠ Memory.unlisted font a) (hn : ∀ c ∈ m, c.1 ≠ a) : Memory.wf font (Memory.insert a b m) := by
  refine ⟨?_, fun c hc => ?_⟩
  · have hp := hm.1
    clear hm
    induction m with
    | nil => simp [Memory.insert]
    | cons d m ih =>
      obtain ⟨hd, hp'⟩ := List.pairwise_cons.mp hp
      have hda : d.1 ≠ a := hn d (by simp)
      unfold Memory.insert
      split
      · rename_i hlt
        refine List.pairwise_cons.mpr ⟨fun c hc => ?_, hp⟩
        rcases List.mem_cons.mp hc with rfl | hc
        · exact hlt
        · exact Nat.lt_trans hlt (hd c hc)
      · rename_i hge
        refine List.pairwise_cons.mpr
          ⟨fun c hc => ?_, ih (fun c hc => hn c (List.mem_cons_of_mem _ hc)) hp'⟩
        rcases Memory.mem_insert hc with rfl | hc
        · simp only; omega
        · exact hd c hc
  · rcases Memory.mem_insert hc with rfl | hc
    · exact ⟨ha, hb⟩
    · exact hm.2 c hc

/-- A write inside the address space keeps the canonical form. -/
theorem Memory.wf_write {m : Memory} {a : Nat} (b : Byte) (hm : Memory.wf font m) (ha : a < 4096) :
    Memory.wf font (Memory.write font m a b) := by
  unfold Memory.write
  split
  · exact Memory.wf_erase font a hm
  · rename_i hb
    exact Memory.wf_insert font (Memory.wf_erase font a hm) ha hb (Memory.not_mem_erase m a)

end Sys2Proof.Machine
end

