-- ==== Sys2Proof/Laws/State.lean ====
section
/-! SUPPORT. One lemma per field per update of the state, each true by definition. -/

namespace Sys2Proof.Machine

variable (s : State)

/-! `State.setReg` -/
@[simp] theorem State.setReg_mem (x : RegNum) (b : Byte) : (s.setReg x b).mem = s.mem := rfl
@[simp] theorem State.setReg_v (x : RegNum) (b : Byte) : (s.setReg x b).v = s.v.set x.toNat b x.isLt := rfl
@[simp] theorem State.setReg_stack (x : RegNum) (b : Byte) : (s.setReg x b).stack = s.stack := rfl
@[simp] theorem State.setReg_sp (x : RegNum) (b : Byte) : (s.setReg x b).sp = s.sp := rfl
@[simp] theorem State.setReg_pc (x : RegNum) (b : Byte) : (s.setReg x b).pc = s.pc := rfl
@[simp] theorem State.setReg_index (x : RegNum) (b : Byte) : (s.setReg x b).index = s.index := rfl
@[simp] theorem State.setReg_fb (x : RegNum) (b : Byte) : (s.setReg x b).fb = s.fb := rfl
@[simp] theorem State.setReg_keys (x : RegNum) (b : Byte) : (s.setReg x b).keys = s.keys := rfl
@[simp] theorem State.setReg_dt (x : RegNum) (b : Byte) : (s.setReg x b).dt = s.dt := rfl
@[simp] theorem State.setReg_st (x : RegNum) (b : Byte) : (s.setReg x b).st = s.st := rfl
@[simp] theorem State.setReg_fault (x : RegNum) (b : Byte) : (s.setReg x b).fault = s.fault := rfl
@[simp] theorem State.setReg_font (x : RegNum) (b : Byte) : (s.setReg x b).font = s.font := rfl
@[simp] theorem State.setReg_randDraws (x : RegNum) (b : Byte) : (s.setReg x b).randDraws = s.randDraws := rfl

/-! `State.writeByte` -/
@[simp] theorem State.writeByte_mem (a : Nat) (b : Byte) : (s.writeByte a b).mem = Memory.write s.font s.mem a b := rfl
@[simp] theorem State.writeByte_v (a : Nat) (b : Byte) : (s.writeByte a b).v = s.v := rfl
@[simp] theorem State.writeByte_stack (a : Nat) (b : Byte) : (s.writeByte a b).stack = s.stack := rfl
@[simp] theorem State.writeByte_sp (a : Nat) (b : Byte) : (s.writeByte a b).sp = s.sp := rfl
@[simp] theorem State.writeByte_pc (a : Nat) (b : Byte) : (s.writeByte a b).pc = s.pc := rfl
@[simp] theorem State.writeByte_index (a : Nat) (b : Byte) : (s.writeByte a b).index = s.index := rfl
@[simp] theorem State.writeByte_fb (a : Nat) (b : Byte) : (s.writeByte a b).fb = s.fb := rfl
@[simp] theorem State.writeByte_keys (a : Nat) (b : Byte) : (s.writeByte a b).keys = s.keys := rfl
@[simp] theorem State.writeByte_dt (a : Nat) (b : Byte) : (s.writeByte a b).dt = s.dt := rfl
@[simp] theorem State.writeByte_st (a : Nat) (b : Byte) : (s.writeByte a b).st = s.st := rfl
@[simp] theorem State.writeByte_fault (a : Nat) (b : Byte) : (s.writeByte a b).fault = s.fault := rfl
@[simp] theorem State.writeByte_font (a : Nat) (b : Byte) : (s.writeByte a b).font = s.font := rfl
@[simp] theorem State.writeByte_randDraws (a : Nat) (b : Byte) : (s.writeByte a b).randDraws = s.randDraws := rfl

/-! `State.setStackEntry` -/
@[simp] theorem State.setStackEntry_mem (k : Nat) (w : Word) : (s.setStackEntry k w).mem = s.mem := rfl
@[simp] theorem State.setStackEntry_v (k : Nat) (w : Word) : (s.setStackEntry k w).v = s.v := rfl
@[simp] theorem State.setStackEntry_stack (k : Nat) (w : Word) : (s.setStackEntry k w).stack = s.stack.setIfInBounds k w := rfl
@[simp] theorem State.setStackEntry_sp (k : Nat) (w : Word) : (s.setStackEntry k w).sp = s.sp := rfl
@[simp] theorem State.setStackEntry_pc (k : Nat) (w : Word) : (s.setStackEntry k w).pc = s.pc := rfl
@[simp] theorem State.setStackEntry_index (k : Nat) (w : Word) : (s.setStackEntry k w).index = s.index := rfl
@[simp] theorem State.setStackEntry_fb (k : Nat) (w : Word) : (s.setStackEntry k w).fb = s.fb := rfl
@[simp] theorem State.setStackEntry_keys (k : Nat) (w : Word) : (s.setStackEntry k w).keys = s.keys := rfl
@[simp] theorem State.setStackEntry_dt (k : Nat) (w : Word) : (s.setStackEntry k w).dt = s.dt := rfl
@[simp] theorem State.setStackEntry_st (k : Nat) (w : Word) : (s.setStackEntry k w).st = s.st := rfl
@[simp] theorem State.setStackEntry_fault (k : Nat) (w : Word) : (s.setStackEntry k w).fault = s.fault := rfl
@[simp] theorem State.setStackEntry_font (k : Nat) (w : Word) : (s.setStackEntry k w).font = s.font := rfl
@[simp] theorem State.setStackEntry_randDraws (k : Nat) (w : Word) : (s.setStackEntry k w).randDraws = s.randDraws := rfl

/-! `State.setSp` -/
@[simp] theorem State.setSp_mem (p : Byte) : (s.setSp p).mem = s.mem := rfl
@[simp] theorem State.setSp_v (p : Byte) : (s.setSp p).v = s.v := rfl
@[simp] theorem State.setSp_stack (p : Byte) : (s.setSp p).stack = s.stack := rfl
@[simp] theorem State.setSp_sp (p : Byte) : (s.setSp p).sp = p := rfl
@[simp] theorem State.setSp_pc (p : Byte) : (s.setSp p).pc = s.pc := rfl
@[simp] theorem State.setSp_index (p : Byte) : (s.setSp p).index = s.index := rfl
@[simp] theorem State.setSp_fb (p : Byte) : (s.setSp p).fb = s.fb := rfl
@[simp] theorem State.setSp_keys (p : Byte) : (s.setSp p).keys = s.keys := rfl
@[simp] theorem State.setSp_dt (p : Byte) : (s.setSp p).dt = s.dt := rfl
@[simp] theorem State.setSp_st (p : Byte) : (s.setSp p).st = s.st := rfl
@[simp] theorem State.setSp_fault (p : Byte) : (s.setSp p).fault = s.fault := rfl
@[simp] theorem State.setSp_font (p : Byte) : (s.setSp p).font = s.font := rfl
@[simp] theorem State.setSp_randDraws (p : Byte) : (s.setSp p).randDraws = s.randDraws := rfl

/-! `State.setPc` -/
@[simp] theorem State.setPc_mem (a : Word) : (s.setPc a).mem = s.mem := rfl
@[simp] theorem State.setPc_v (a : Word) : (s.setPc a).v = s.v := rfl
@[simp] theorem State.setPc_stack (a : Word) : (s.setPc a).stack = s.stack := rfl
@[simp] theorem State.setPc_sp (a : Word) : (s.setPc a).sp = s.sp := rfl
@[simp] theorem State.setPc_pc (a : Word) : (s.setPc a).pc = a := rfl
@[simp] theorem State.setPc_index (a : Word) : (s.setPc a).index = s.index := rfl
@[simp] theorem State.setPc_fb (a : Word) : (s.setPc a).fb = s.fb := rfl
@[simp] theorem State.setPc_keys (a : Word) : (s.setPc a).keys = s.keys := rfl
@[simp] theorem State.setPc_dt (a : Word) : (s.setPc a).dt = s.dt := rfl
@[simp] theorem State.setPc_st (a : Word) : (s.setPc a).st = s.st := rfl
@[simp] theorem State.setPc_fault (a : Word) : (s.setPc a).fault = s.fault := rfl
@[simp] theorem State.setPc_font (a : Word) : (s.setPc a).font = s.font := rfl
@[simp] theorem State.setPc_randDraws (a : Word) : (s.setPc a).randDraws = s.randDraws := rfl

/-! `State.setIndex` -/
@[simp] theorem State.setIndex_mem (a : Word) : (s.setIndex a).mem = s.mem := rfl
@[simp] theorem State.setIndex_v (a : Word) : (s.setIndex a).v = s.v := rfl
@[simp] theorem State.setIndex_stack (a : Word) : (s.setIndex a).stack = s.stack := rfl
@[simp] theorem State.setIndex_sp (a : Word) : (s.setIndex a).sp = s.sp := rfl
@[simp] theorem State.setIndex_pc (a : Word) : (s.setIndex a).pc = s.pc := rfl
@[simp] theorem State.setIndex_index (a : Word) : (s.setIndex a).index = a := rfl
@[simp] theorem State.setIndex_fb (a : Word) : (s.setIndex a).fb = s.fb := rfl
@[simp] theorem State.setIndex_keys (a : Word) : (s.setIndex a).keys = s.keys := rfl
@[simp] theorem State.setIndex_dt (a : Word) : (s.setIndex a).dt = s.dt := rfl
@[simp] theorem State.setIndex_st (a : Word) : (s.setIndex a).st = s.st := rfl
@[simp] theorem State.setIndex_fault (a : Word) : (s.setIndex a).fault = s.fault := rfl
@[simp] theorem State.setIndex_font (a : Word) : (s.setIndex a).font = s.font := rfl
@[simp] theorem State.setIndex_randDraws (a : Word) : (s.setIndex a).randDraws = s.randDraws := rfl

/-! `State.setFb` -/
@[simp] theorem State.setFb_mem (f : Framebuffer) : (s.setFb f).mem = s.mem := rfl
@[simp] theorem State.setFb_v (f : Framebuffer) : (s.setFb f).v = s.v := rfl
@[simp] theorem State.setFb_stack (f : Framebuffer) : (s.setFb f).stack = s.stack := rfl
@[simp] theorem State.setFb_sp (f : Framebuffer) : (s.setFb f).sp = s.sp := rfl
@[simp] theorem State.setFb_pc (f : Framebuffer) : (s.setFb f).pc = s.pc := rfl
@[simp] theorem State.setFb_index (f : Framebuffer) : (s.setFb f).index = s.index := rfl
@[simp] theorem State.setFb_fb (f : Framebuffer) : (s.setFb f).fb = f := rfl
@[simp] theorem State.setFb_keys (f : Framebuffer) : (s.setFb f).keys = s.keys := rfl
@[simp] theorem State.setFb_dt (f : Framebuffer) : (s.setFb f).dt = s.dt := rfl
@[simp] theorem State.setFb_st (f : Framebuffer) : (s.setFb f).st = s.st := rfl
@[simp] theorem State.setFb_fault (f : Framebuffer) : (s.setFb f).fault = s.fault := rfl
@[simp] theorem State.setFb_font (f : Framebuffer) : (s.setFb f).font = s.font := rfl
@[simp] theorem State.setFb_randDraws (f : Framebuffer) : (s.setFb f).randDraws = s.randDraws := rfl

/-! `State.setDt` -/
@[simp] theorem State.setDt_mem (b : Byte) : (s.setDt b).mem = s.mem := rfl
@[simp] theorem State.setDt_v (b : Byte) : (s.setDt b).v = s.v := rfl
@[simp] theorem State.setDt_stack (b : Byte) : (s.setDt b).stack = s.stack := rfl
@[simp] theorem State.setDt_sp (b : Byte) : (s.setDt b).sp = s.sp := rfl
@[simp] theorem State.setDt_pc (b : Byte) : (s.setDt b).pc = s.pc := rfl
@[simp] theorem State.setDt_index (b : Byte) : (s.setDt b).index = s.index := rfl
@[simp] theorem State.setDt_fb (b : Byte) : (s.setDt b).fb = s.fb := rfl
@[simp] theorem State.setDt_keys (b : Byte) : (s.setDt b).keys = s.keys := rfl
@[simp] theorem State.setDt_dt (b : Byte) : (s.setDt b).dt = b := rfl
@[simp] theorem State.setDt_st (b : Byte) : (s.setDt b).st = s.st := rfl
@[simp] theorem State.setDt_fault (b : Byte) : (s.setDt b).fault = s.fault := rfl
@[simp] theorem State.setDt_font (b : Byte) : (s.setDt b).font = s.font := rfl
@[simp] theorem State.setDt_randDraws (b : Byte) : (s.setDt b).randDraws = s.randDraws := rfl

/-! `State.setSt` -/
@[simp] theorem State.setSt_mem (b : Byte) : (s.setSt b).mem = s.mem := rfl
@[simp] theorem State.setSt_v (b : Byte) : (s.setSt b).v = s.v := rfl
@[simp] theorem State.setSt_stack (b : Byte) : (s.setSt b).stack = s.stack := rfl
@[simp] theorem State.setSt_sp (b : Byte) : (s.setSt b).sp = s.sp := rfl
@[simp] theorem State.setSt_pc (b : Byte) : (s.setSt b).pc = s.pc := rfl
@[simp] theorem State.setSt_index (b : Byte) : (s.setSt b).index = s.index := rfl
@[simp] theorem State.setSt_fb (b : Byte) : (s.setSt b).fb = s.fb := rfl
@[simp] theorem State.setSt_keys (b : Byte) : (s.setSt b).keys = s.keys := rfl
@[simp] theorem State.setSt_dt (b : Byte) : (s.setSt b).dt = s.dt := rfl
@[simp] theorem State.setSt_st (b : Byte) : (s.setSt b).st = b := rfl
@[simp] theorem State.setSt_fault (b : Byte) : (s.setSt b).fault = s.fault := rfl
@[simp] theorem State.setSt_font (b : Byte) : (s.setSt b).font = s.font := rfl
@[simp] theorem State.setSt_randDraws (b : Byte) : (s.setSt b).randDraws = s.randDraws := rfl

/-! `State.raise` -/
@[simp] theorem State.raise_mem (f : Fault) : (s.raise f).mem = s.mem := rfl
@[simp] theorem State.raise_v (f : Fault) : (s.raise f).v = s.v := rfl
@[simp] theorem State.raise_stack (f : Fault) : (s.raise f).stack = s.stack := rfl
@[simp] theorem State.raise_sp (f : Fault) : (s.raise f).sp = s.sp := rfl
@[simp] theorem State.raise_pc (f : Fault) : (s.raise f).pc = s.pc := rfl
@[simp] theorem State.raise_index (f : Fault) : (s.raise f).index = s.index := rfl
@[simp] theorem State.raise_fb (f : Fault) : (s.raise f).fb = s.fb := rfl
@[simp] theorem State.raise_keys (f : Fault) : (s.raise f).keys = s.keys := rfl
@[simp] theorem State.raise_dt (f : Fault) : (s.raise f).dt = s.dt := rfl
@[simp] theorem State.raise_st (f : Fault) : (s.raise f).st = s.st := rfl
@[simp] theorem State.raise_fault (f : Fault) : (s.raise f).fault = some f := rfl
@[simp] theorem State.raise_font (f : Fault) : (s.raise f).font = s.font := rfl
@[simp] theorem State.raise_randDraws (f : Fault) : (s.raise f).randDraws = s.randDraws := rfl

/-! `State.countDraw` -/
@[simp] theorem State.countDraw_mem : (s.countDraw).mem = s.mem := rfl
@[simp] theorem State.countDraw_v : (s.countDraw).v = s.v := rfl
@[simp] theorem State.countDraw_stack : (s.countDraw).stack = s.stack := rfl
@[simp] theorem State.countDraw_sp : (s.countDraw).sp = s.sp := rfl
@[simp] theorem State.countDraw_pc : (s.countDraw).pc = s.pc := rfl
@[simp] theorem State.countDraw_index : (s.countDraw).index = s.index := rfl
@[simp] theorem State.countDraw_fb : (s.countDraw).fb = s.fb := rfl
@[simp] theorem State.countDraw_keys : (s.countDraw).keys = s.keys := rfl
@[simp] theorem State.countDraw_dt : (s.countDraw).dt = s.dt := rfl
@[simp] theorem State.countDraw_st : (s.countDraw).st = s.st := rfl
@[simp] theorem State.countDraw_fault : (s.countDraw).fault = s.fault := rfl
@[simp] theorem State.countDraw_font : (s.countDraw).font = s.font := rfl
@[simp] theorem State.countDraw_randDraws : (s.countDraw).randDraws = s.randDraws + 1 := rfl

end Sys2Proof.Machine
end

