-- ==== Sys2Proof/Laws/Ops.lean ====
section
/-! SUPPORT. What each shared operation does, once: reads after updates, block transfers, the end of a step. -/

namespace Sys2Proof.Machine

variable (s : State)

/-! ### Memory through the state -/

theorem State.readByte_writeByte (a a' : Nat) (b : Byte) :
    (s.writeByte a b).readByte a' = if a' = a then b else s.readByte a' :=
  Memory.read_write s.font s.mem a a' b

@[simp] theorem State.readByte_setReg (x : RegNum) (b : Byte) (a : Nat) :
    (s.setReg x b).readByte a = s.readByte a := rfl
@[simp] theorem State.readByte_setStackEntry (k : Nat) (w : Word) (a : Nat) :
    (s.setStackEntry k w).readByte a = s.readByte a := rfl
@[simp] theorem State.readByte_setSp (p : Byte) (a : Nat) : (s.setSp p).readByte a = s.readByte a := rfl
@[simp] theorem State.readByte_setPc (p : Word) (a : Nat) : (s.setPc p).readByte a = s.readByte a := rfl
@[simp] theorem State.readByte_setIndex (p : Word) (a : Nat) : (s.setIndex p).readByte a = s.readByte a := rfl
@[simp] theorem State.readByte_setFb (f : Framebuffer) (a : Nat) : (s.setFb f).readByte a = s.readByte a := rfl
@[simp] theorem State.readByte_setDt (b : Byte) (a : Nat) : (s.setDt b).readByte a = s.readByte a := rfl
@[simp] theorem State.readByte_setSt (b : Byte) (a : Nat) : (s.setSt b).readByte a = s.readByte a := rfl
@[simp] theorem State.readByte_raise (f : Fault) (a : Nat) : (s.raise f).readByte a = s.readByte a := rfl
@[simp] theorem State.readByte_countDraw (a : Nat) : s.countDraw.readByte a = s.readByte a := rfl

/-! ### Registers -/

theorem State.reg_setReg (x y : RegNum) (b : Byte) :
    (s.setReg x b).reg y = if y = x then b else s.reg y := by
  simp only [State.reg, State.setReg, Vector.getElem_set, ← BitVec.toNat_inj, eq_comm]

@[simp] theorem State.reg_setReg_self (x : RegNum) (b : Byte) : (s.setReg x b).reg x = b := by
  simp [State.reg_setReg]

@[simp] theorem State.reg_writeByte (a : Nat) (b : Byte) (x : RegNum) : (s.writeByte a b).reg x = s.reg x := rfl
@[simp] theorem State.reg_setStackEntry (k : Nat) (w : Word) (x : RegNum) :
    (s.setStackEntry k w).reg x = s.reg x := rfl
@[simp] theorem State.reg_setSp (p : Byte) (x : RegNum) : (s.setSp p).reg x = s.reg x := rfl
@[simp] theorem State.reg_setPc (p : Word) (x : RegNum) : (s.setPc p).reg x = s.reg x := rfl
@[simp] theorem State.reg_setIndex (p : Word) (x : RegNum) : (s.setIndex p).reg x = s.reg x := rfl
@[simp] theorem State.reg_setFb (f : Framebuffer) (x : RegNum) : (s.setFb f).reg x = s.reg x := rfl
@[simp] theorem State.reg_setDt (b : Byte) (x : RegNum) : (s.setDt b).reg x = s.reg x := rfl
@[simp] theorem State.reg_setSt (b : Byte) (x : RegNum) : (s.setSt b).reg x = s.reg x := rfl
@[simp] theorem State.reg_raise (f : Fault) (x : RegNum) : (s.raise f).reg x = s.reg x := rfl
@[simp] theorem State.reg_countDraw (x : RegNum) : s.countDraw.reg x = s.reg x := rfl

/-! ### The call stack -/

theorem State.stackEntry_setStackEntry (k j : Nat) (w : Word) (hk : k < 16) :
    (s.setStackEntry k w).stackEntry j = if j = k then w else s.stackEntry j := by
  by_cases h : j = k
  · subst h; simp [State.stackEntry, State.setStackEntry, hk]
  · simp [State.stackEntry, State.setStackEntry, h, Ne.symm h]

@[simp] theorem State.stackEntry_writeByte (a : Nat) (b : Byte) (k : Nat) :
    (s.writeByte a b).stackEntry k = s.stackEntry k := rfl
@[simp] theorem State.stackEntry_setReg (x : RegNum) (b : Byte) (k : Nat) :
    (s.setReg x b).stackEntry k = s.stackEntry k := rfl
@[simp] theorem State.stackEntry_setSp (p : Byte) (k : Nat) : (s.setSp p).stackEntry k = s.stackEntry k := rfl
@[simp] theorem State.stackEntry_setPc (p : Word) (k : Nat) : (s.setPc p).stackEntry k = s.stackEntry k := rfl
@[simp] theorem State.stackEntry_setIndex (p : Word) (k : Nat) : (s.setIndex p).stackEntry k = s.stackEntry k := rfl
@[simp] theorem State.stackEntry_setFb (f : Framebuffer) (k : Nat) : (s.setFb f).stackEntry k = s.stackEntry k := rfl
@[simp] theorem State.stackEntry_setDt (b : Byte) (k : Nat) : (s.setDt b).stackEntry k = s.stackEntry k := rfl
@[simp] theorem State.stackEntry_setSt (b : Byte) (k : Nat) : (s.setSt b).stackEntry k = s.stackEntry k := rfl
@[simp] theorem State.stackEntry_raise (f : Fault) (k : Nat) : (s.raise f).stackEntry k = s.stackEntry k := rfl
@[simp] theorem State.stackEntry_countDraw (k : Nat) : s.countDraw.stackEntry k = s.stackEntry k := rfl

/-! ### Block stores: only memory changes, and of it only the stored bytes -/

/-- All of the state but memory is what it was: the rest of a block store in one equation. -/
theorem State.storeBytes_eq (bs : List Byte) (a : Nat) :
    s.storeBytes a bs = { s with mem := (s.storeBytes a bs).mem } := by
  induction bs generalizing s a with
  | nil => rfl
  | cons b bs ih => rw [State.storeBytes, ih]; rfl

@[simp] theorem State.storeBytes_v (bs : List Byte) (a : Nat) : (s.storeBytes a bs).v = s.v := by
  rw [State.storeBytes_eq]
@[simp] theorem State.storeBytes_stack (bs : List Byte) (a : Nat) : (s.storeBytes a bs).stack = s.stack := by
  rw [State.storeBytes_eq]
@[simp] theorem State.storeBytes_sp (bs : List Byte) (a : Nat) : (s.storeBytes a bs).sp = s.sp := by
  rw [State.storeBytes_eq]
@[simp] theorem State.storeBytes_pc (bs : List Byte) (a : Nat) : (s.storeBytes a bs).pc = s.pc := by
  rw [State.storeBytes_eq]
@[simp] theorem State.storeBytes_index (bs : List Byte) (a : Nat) : (s.storeBytes a bs).index = s.index := by
  rw [State.storeBytes_eq]
@[simp] theorem State.storeBytes_fb (bs : List Byte) (a : Nat) : (s.storeBytes a bs).fb = s.fb := by
  rw [State.storeBytes_eq]
@[simp] theorem State.storeBytes_keys (bs : List Byte) (a : Nat) : (s.storeBytes a bs).keys = s.keys := by
  rw [State.storeBytes_eq]
@[simp] theorem State.storeBytes_dt (bs : List Byte) (a : Nat) : (s.storeBytes a bs).dt = s.dt := by
  rw [State.storeBytes_eq]
@[simp] theorem State.storeBytes_st (bs : List Byte) (a : Nat) : (s.storeBytes a bs).st = s.st := by
  rw [State.storeBytes_eq]
@[simp] theorem State.storeBytes_fault (bs : List Byte) (a : Nat) : (s.storeBytes a bs).fault = s.fault := by
  rw [State.storeBytes_eq]
@[simp] theorem State.storeBytes_font (bs : List Byte) (a : Nat) : (s.storeBytes a bs).font = s.font := by
  rw [State.storeBytes_eq]
@[simp] theorem State.storeBytes_randDraws (bs : List Byte) (a : Nat) :
    (s.storeBytes a bs).randDraws = s.randDraws := by
  rw [State.storeBytes_eq]
@[simp] theorem State.reg_storeBytes (bs : List Byte) (a : Nat) (x : RegNum) :
    (s.storeBytes a bs).reg x = s.reg x := by
  rw [State.storeBytes_eq]; rfl
@[simp] theorem State.stackEntry_storeBytes (bs : List Byte) (a k : Nat) :
    (s.storeBytes a bs).stackEntry k = s.stackEntry k := by
  rw [State.storeBytes_eq]; rfl

/-- A byte after a block store: the stored one inside the block, the old one outside. -/
theorem State.readByte_storeBytes (bs : List Byte) (a a' : Nat) :
    (s.storeBytes a bs).readByte a' =
      if h : a ≤ a' ∧ a' - a < bs.length then bs[a' - a]'h.2 else s.readByte a' := by
  induction bs generalizing s a with
  | nil => simp [State.storeBytes]
  | cons b bs ih =>
    rw [State.storeBytes, ih, State.readByte_writeByte]
    by_cases h1 : a' = a
    · subst h1
      simp
    · by_cases h2 : a ≤ a' ∧ a' - a < (b :: bs).length
      · obtain ⟨d, hd⟩ : ∃ d, a' - a = d + 1 := ⟨a' - a - 1, by omega⟩
        have e : a' - (a + 1) = d := by omega
        have hl : d < bs.length := by have := h2.2; simp only [List.length_cons] at this; omega
        have h3 : a + 1 ≤ a' ∧ a' - (a + 1) < bs.length := ⟨by omega, by omega⟩
        rw [dif_pos h2, dif_pos h3]
        simp only [hd, e, List.getElem_cons_succ]
      · have h3 : ¬(a + 1 ≤ a' ∧ a' - (a + 1) < bs.length) := by
          simp only [List.length_cons] at h2; omega
        simp only [dif_neg h2, dif_neg h3, if_neg h1]

/-- A block store inside the address space keeps memory's canonical form. -/
theorem State.wf_storeBytes (bs : List Byte) (a : Nat) (h : Memory.wf s.font s.mem) (ha : a + bs.length ≤ 4096) :
    Memory.wf s.font (s.storeBytes a bs).mem := by
  induction bs generalizing s a with
  | nil => exact h
  | cons b bs ih =>
    simp only [List.length_cons] at ha
    exact ih (s.writeByte a b) (a + 1) (Memory.wf_write s.font b h (by omega)) (by omega)

/-! ### Block loads: only V changes, and of it only the loaded registers -/

/-- All of the state but V is what it was. -/
theorem State.setRegs_eq (bs : List Byte) (k : Nat) :
    s.setRegs k bs = { s with v := (s.setRegs k bs).v } := by
  induction bs generalizing s k with
  | nil => rfl
  | cons b bs ih => rw [State.setRegs, ih]; rfl

@[simp] theorem State.setRegs_mem (bs : List Byte) (k : Nat) : (s.setRegs k bs).mem = s.mem := by
  rw [State.setRegs_eq]
@[simp] theorem State.setRegs_stack (bs : List Byte) (k : Nat) : (s.setRegs k bs).stack = s.stack := by
  rw [State.setRegs_eq]
@[simp] theorem State.setRegs_sp (bs : List Byte) (k : Nat) : (s.setRegs k bs).sp = s.sp := by
  rw [State.setRegs_eq]
@[simp] theorem State.setRegs_pc (bs : List Byte) (k : Nat) : (s.setRegs k bs).pc = s.pc := by
  rw [State.setRegs_eq]
@[simp] theorem State.setRegs_index (bs : List Byte) (k : Nat) : (s.setRegs k bs).index = s.index := by
  rw [State.setRegs_eq]
@[simp] theorem State.setRegs_fb (bs : List Byte) (k : Nat) : (s.setRegs k bs).fb = s.fb := by
  rw [State.setRegs_eq]
@[simp] theorem State.setRegs_keys (bs : List Byte) (k : Nat) : (s.setRegs k bs).keys = s.keys := by
  rw [State.setRegs_eq]
@[simp] theorem State.setRegs_dt (bs : List Byte) (k : Nat) : (s.setRegs k bs).dt = s.dt := by
  rw [State.setRegs_eq]
@[simp] theorem State.setRegs_st (bs : List Byte) (k : Nat) : (s.setRegs k bs).st = s.st := by
  rw [State.setRegs_eq]
@[simp] theorem State.setRegs_fault (bs : List Byte) (k : Nat) : (s.setRegs k bs).fault = s.fault := by
  rw [State.setRegs_eq]
@[simp] theorem State.setRegs_font (bs : List Byte) (k : Nat) : (s.setRegs k bs).font = s.font := by
  rw [State.setRegs_eq]
@[simp] theorem State.setRegs_randDraws (bs : List Byte) (k : Nat) : (s.setRegs k bs).randDraws = s.randDraws := by
  rw [State.setRegs_eq]
@[simp] theorem State.readByte_setRegs (bs : List Byte) (k a : Nat) :
    (s.setRegs k bs).readByte a = s.readByte a := by
  rw [State.setRegs_eq]; rfl
@[simp] theorem State.stackEntry_setRegs (bs : List Byte) (k j : Nat) :
    (s.setRegs k bs).stackEntry j = s.stackEntry j := by
  rw [State.setRegs_eq]; rfl

/-- A register after a block load: the loaded byte inside the block, the old one outside. -/
theorem State.reg_setRegs (bs : List Byte) (k : Nat) (x : RegNum) (hk : k + bs.length ≤ 16) :
    (s.setRegs k bs).reg x =
      if h : k ≤ x.toNat ∧ x.toNat - k < bs.length then bs[x.toNat - k]'h.2 else s.reg x := by
  induction bs generalizing s k with
  | nil => simp [State.setRegs]
  | cons b bs ih =>
    simp only [List.length_cons] at hk
    rw [State.setRegs, ih _ _ (by omega), State.reg_setReg]
    have hx : x = BitVec.ofNat 4 k ↔ x.toNat = k := by
      rw [← BitVec.toNat_inj, BitVec.toNat_ofNat, Nat.mod_eq_of_lt (by omega)]
    by_cases h1 : x.toNat = k
    · simp [hx, h1]
    · by_cases h2 : k ≤ x.toNat ∧ x.toNat - k < (b :: bs).length
      · obtain ⟨d, hd⟩ : ∃ d, x.toNat - k = d + 1 := ⟨x.toNat - k - 1, by omega⟩
        have e : x.toNat - (k + 1) = d := by omega
        have hl : d < bs.length := by have := h2.2; simp only [List.length_cons] at this; omega
        have h3 : k + 1 ≤ x.toNat ∧ x.toNat - (k + 1) < bs.length := ⟨by omega, by omega⟩
        rw [dif_pos h2, dif_pos h3]
        simp only [hd, e, List.getElem_cons_succ]
      · have h3 : ¬(k + 1 ≤ x.toNat ∧ x.toNat - (k + 1) < bs.length) := by
          simp only [List.length_cons] at h2; omega
        simp only [dif_neg h2, dif_neg h3, hx, if_neg h1]

@[simp] theorem State.length_readBytes (a n : Nat) : (s.readBytes a n).length = n := by simp [State.readBytes]

@[simp] theorem State.length_readRegs (n : Nat) : (s.readRegs n).length = n := by simp [State.readRegs]

@[simp] theorem State.getElem_readBytes (a n k : Nat) (h : k < (s.readBytes a n).length) :
    (s.readBytes a n)[k] = s.readByte (a + k) := by simp [State.readBytes]

@[simp] theorem State.getElem_readRegs (n k : Nat) (h : k < (s.readRegs n).length) :
    (s.readRegs n)[k] = s.reg (BitVec.ofNat 4 k) := by simp [State.readRegs]

/-! ### The end of a step -/

/-- A timer counts down by one and never below 0. -/
theorem decayTimer_toNat (t : Byte) : (decayTimer t).toNat = t.toNat - 1 := by
  unfold decayTimer
  split
  · subst_vars; rfl
  · rename_i h
    have : t.toNat ≠ 0 := fun e => h (BitVec.eq_of_toNat_eq (by simpa using e))
    rw [BitVec.toNat_sub]; have := t.isLt; simp; omega

theorem State.retire_of_fault {f : Fault} (h : s.fault = some f) : s.retire = s := by simp [State.retire, h]

theorem State.retire_of_none (h : s.fault = none) : s.retire = s.decay := by simp [State.retire, h]

/-- What phase 4 can do to a next state: nothing where a fault is latched, the decay of both timers otherwise. -/
theorem retireResult_next {r : Result} {t : State} (h : retireResult r = .next t) :
    ∃ u, r = .next u ∧ ((u.fault.isSome ∧ t = u) ∨ (u.fault = none ∧ t = u.decay)) := by
  cases r with
  | next u =>
    refine ⟨u, rfl, ?_⟩
    simp only [retireResult, Host.Outcome.next.injEq] at h
    cases hf : u.fault with
    | none => exact .inr ⟨rfl, by rw [← h, State.retire_of_none u hf]⟩
    | some f => exact .inl ⟨by simp, by rw [← h, State.retire_of_fault u hf]⟩
  | fault f => simp [retireResult] at h
  | refused r => simp [retireResult] at h

/-- `takeFault` answers one next state: the same state with the latch set. -/
theorem takeFault_next {f : Fault} {t : State} : takeFault s f = .next t ↔ t = s.raise f := by
  simp [takeFault, eq_comm]

end Sys2Proof.Machine
end

