-- ==== Sys2Proof/Laws/Display.lean ====
section
/-! SUPPORT. The sprite compositor in closed form: the rows of a sprite plot distinct flat indices, each once. -/

namespace Sys2Proof.Machine

/-- One pixel after one sprite bit is plotted. -/
theorem plot_pixel (idx k : Nat) (c : Canvas) (hk : k < 2048) :
    (plot idx c).1.getLsbD k = (c.1.getLsbD k ^^ decide (idx = k)) := by
  unfold plot
  split
  · simp [hk]; exact eq_comm
  · have : ¬ idx = k := by omega
    simp [this]

/-- A list of flat indices plotted in turn. -/
def plots (l : List Nat) (c : Canvas) : Canvas := l.foldl (fun c i => plot i c) c

/-- Indices plotted once each: the listed pixels are toggled, and a collision is a listed pixel that was lit. -/
theorem plots_spec (l : List Nat) (hl : l.Nodup) (c : Canvas) :
    (∀ k < 2048, (plots l c).1.getLsbD k = (c.1.getLsbD k ^^ decide (k ∈ l))) ∧
    ((plots l c).2 = true ↔ c.2 = true ∨ ∃ k < 2048, k ∈ l ∧ c.1.getLsbD k = true) := by
  induction l generalizing c with
  | nil => simp [plots]
  | cons i l ih =>
    obtain ⟨hi, hl⟩ := List.nodup_cons.mp hl
    obtain ⟨ih1, ih2⟩ := ih hl (plot i c)
    have e : plots (i :: l) c = plots l (plot i c) := rfl
    rw [e]
    constructor
    · intro k hk
      rw [ih1 k hk, plot_pixel i k c hk]
      by_cases h1 : i = k
      · subst h1; simp [hi]
      · have : ¬ k = i := fun h => h1 h.symm
        simp [h1, this]
    · rw [ih2]
      have h2 : (plot i c).2 = true ↔ c.2 = true ∨ (i < 2048 ∧ c.1.getLsbD i = true) := by
        unfold plot; split <;> simp_all
      rw [h2]
      constructor
      · rintro ((h | h) | ⟨k, hk, hm, hb⟩)
        · exact .inl h
        · exact .inr ⟨i, h.1, by simp, h.2⟩
        · rw [plot_pixel i k c hk] at hb
          have : ¬ i = k := by rintro rfl; exact hi hm
          exact .inr ⟨k, hk, by simp [hm], by simpa [this] using hb⟩
      · rintro (h | ⟨k, hk, hm, hb⟩)
        · exact .inl (.inl h)
        · rcases List.mem_cons.mp hm with rfl | hm
          · exact .inl (.inr ⟨hk, hb⟩)
          · have : ¬ i = k := by rintro rfl; exact hi hm
            exact .inr ⟨k, hk, hm, by rw [plot_pixel i k c hk]; simpa [this] using hb⟩

/-- The flat indices at which one sprite row has a 1. -/
def rowIdx (px py : Nat) (b : Byte) : List Nat :=
  ((List.range 8).filter (fun col => b.getLsbD (7 - col))).map (fun col => pixelIndex (px + col) py)

theorem drawRow_eq (px py : Nat) (b : Byte) (c : Canvas) : drawRow px py b c = plots (rowIdx px py b) c := by
  unfold drawRow plots rowIdx
  rw [List.foldl_map, List.foldl_filter]

/-- The flat indices at which a sprite has a 1, row after row. -/
def allIdx (px py : Nat) : List Byte → List Nat
  | [] => []
  | b :: bs => rowIdx px py b ++ allIdx px (py + 1) bs

theorem drawRows_eq (px py : Nat) (bs : List Byte) (c : Canvas) :
    drawRows px py bs c = plots (allIdx px py bs) c := by
  induction bs generalizing py c with
  | nil => rfl
  | cons b bs ih => rw [drawRows, ih, drawRow_eq, allIdx, plots, plots, plots, List.foldl_append]

theorem mem_allIdx (px py : Nat) (bs : List Byte) (k : Nat) : k ∈ allIdx px py bs ↔
    ∃ row, ∃ h : row < bs.length, ∃ col < 8, bs[row].getLsbD (7 - col) = true ∧
      (py + row) * 64 + (px + col) = k := by
  induction bs generalizing py with
  | nil => simp [allIdx]
  | cons b bs ih =>
    rw [allIdx, List.mem_append, ih]
    constructor
    · rintro (h | ⟨row, hr, col, hc, hb, he⟩)
      · simp [rowIdx, pixelIndex] at h
        obtain ⟨col, ⟨hc, hb⟩, he⟩ := h
        exact ⟨0, by simp, col, hc, by simpa using hb, by simpa using he⟩
      · exact ⟨row + 1, by simpa using hr, col, hc, by simpa using hb, by omega⟩
    · rintro ⟨row, hr, col, hc, hb, he⟩
      cases row with
      | zero => left; simp [rowIdx, pixelIndex]; exact ⟨col, ⟨hc, by simpa using hb⟩, by simpa using he⟩
      | succ row => right; exact ⟨row, by simpa using hr, col, hc, by simpa using hb, by omega⟩

/-- No pixel is aimed at twice. -/
theorem nodup_allIdx (px py : Nat) (bs : List Byte) : (allIdx px py bs).Nodup := by
  induction bs generalizing py with
  | nil => simp [allIdx]
  | cons b bs ih =>
    rw [allIdx, List.nodup_append]
    refine ⟨?_, ih _, ?_⟩
    · unfold rowIdx
      apply List.Nodup.map
      · intro a b h; simp [pixelIndex] at h; omega
      · exact List.Nodup.filter _ List.nodup_range
    · intro a ha c hc
      simp [rowIdx, pixelIndex] at ha
      obtain ⟨col, ⟨hcol, _⟩, rfl⟩ := ha
      obtain ⟨row, hr, col', hc', _, he⟩ := (mem_allIdx _ _ _ _).mp hc
      omega

theorem covers_iff (s : State) (x y : RegNum) (n k : Nat) : covers s x y n k ↔
    k ∈ allIdx (s.reg x).toNat (s.reg y).toNat (s.readBytes (s.effAddr 0) n) := by
  rw [mem_allIdx]
  simp [covers, State.effAddr]

end Sys2Proof.Machine
end

