-- ==== Sys2Proof/Laws/Encoding.lean ====
section
/-! SUPPORT. The fields of a word built from a format, and a word rebuilt from its fields (30_encoding.md R61, R63). -/

namespace Sys2Proof

section
variable {w v : Nat} (a : BitVec w) (b : BitVec v)

theorem extract_high : (a ++ b).extractLsb' v w = a := by
  ext i hi
  simp [BitVec.getLsbD_append, BitVec.getLsbD_eq_getElem hi]

theorem extract_all : b.extractLsb' 0 v = b := by
  ext i hi
  simp

theorem extract_low (s k : Nat) (h : s + k ≤ v) : (a ++ b).extractLsb' s k = b.extractLsb' s k := by
  ext i hi
  have h' : s + i < v := by omega
  simp [BitVec.getLsbD_append, h']

theorem append_extracts (c : BitVec (w + v)) : c.extractLsb' v w ++ c.extractLsb' 0 v = c := by
  simp

end

section
variable (t n : BitVec 4) (x y : RegNum) (kk : Byte) (nnn : Addr12) (op : Opcode)

@[simp] theorem opTop_wordNNN : opTop (wordNNN t nnn) = t := extract_high t nnn

@[simp] theorem opNNN_wordNNN : opNNN (wordNNN t nnn) = nnn :=
  (extract_low t nnn 0 12 (by decide)).trans (extract_all nnn)

@[simp] theorem opTop_wordXKK : opTop (wordXKK t x kk) = t := extract_high t (x ++ kk)

@[simp] theorem opX_wordXKK : opX (wordXKK t x kk) = x :=
  (extract_low t (x ++ kk) 8 4 (by decide)).trans (extract_high x kk)

@[simp] theorem opKK_wordXKK : opKK (wordXKK t x kk) = kk :=
  (extract_low t (x ++ kk) 0 8 (by decide)).trans
    ((extract_low x kk 0 8 (by decide)).trans (extract_all kk))

@[simp] theorem opTop_wordXYN : opTop (wordXYN t x y n) = t := extract_high t (x ++ (y ++ n))

@[simp] theorem opX_wordXYN : opX (wordXYN t x y n) = x :=
  (extract_low t (x ++ (y ++ n)) 8 4 (by decide)).trans (extract_high x (y ++ n))

@[simp] theorem opY_wordXYN : opY (wordXYN t x y n) = y :=
  (extract_low t (x ++ (y ++ n)) 4 4 (by decide)).trans
    ((extract_low x (y ++ n) 4 4 (by decide)).trans (extract_high y n))

@[simp] theorem opN_wordXYN : opN (wordXYN t x y n) = n :=
  (extract_low t (x ++ (y ++ n)) 0 4 (by decide)).trans
    ((extract_low x (y ++ n) 0 4 (by decide)).trans
      ((extract_low y n 0 4 (by decide)).trans (extract_all n)))

theorem wordNNN_fields : wordNNN (opTop op) (opNNN op) = op := append_extracts (w := 4) (v := 12) op

theorem opNNN_fields : opX op ++ opKK op = opNNN op := by
  have h := append_extracts (w := 4) (v := 8) (opNNN op)
  have e1 : (opNNN op).extractLsb' 8 4 = opX op := by
    simp only [opNNN, opX]; ext i hi
    simp
  have e2 : (opNNN op).extractLsb' 0 8 = opKK op := by
    simp only [opNNN, opKK]; ext i hi
    simp
  rw [e1, e2] at h
  exact h

theorem opKK_fields : opY op ++ opN op = opKK op := by
  have h := append_extracts (w := 4) (v := 4) (opKK op)
  have e1 : (opKK op).extractLsb' 4 4 = opY op := by
    simp only [opKK, opY]; ext i hi
    simp
  have e2 : (opKK op).extractLsb' 0 4 = opN op := by
    simp only [opKK, opN]; ext i hi
    simp
  rw [e1, e2] at h
  exact h

theorem wordXKK_fields : wordXKK (opTop op) (opX op) (opKK op) = op := by
  rw [wordXKK, opNNN_fields]; exact wordNNN_fields op

theorem wordXYN_fields : wordXYN (opTop op) (opX op) (opY op) (opN op) = op := by
  rw [wordXYN, opKK_fields]; exact wordXKK_fields op

/-- The two bytes of a word give the word back. -/
@[simp] theorem opcodeOf_opcodeBytes : opcodeOf (op.extractLsb' 8 8) (op.extractLsb' 0 8) = op :=
  append_extracts (w := 8) (v := 8) op

end

end Sys2Proof
end

