-- ==== Sys2Proof/Laws/PerInstr.lean ====
section
/-! SUPPORT. Statements per instruction: the encoder puts every well-formed instruction into its own row of the opcode
map (30_encoding.md R64, R66). -/

namespace Sys2Proof.Laws

/-- A format whose operand field is not masked: the four top bits are left. -/
theorem mask_nnn (t : BitVec 4) (nnn : Addr12) : wordNNN t nnn &&& 0xF000#16 = wordNNN t 0#12 := by
  have e : (0xF000#16 : Opcode) = wordNNN 0xF#4 0#12 := by decide
  rw [e]
  refine (BitVec.and_append (x₁ := t) (x₂ := 0xF#4) (y₁ := nnn) (y₂ := 0#12)).trans ?_
  rw [BitVec.and_zero, show t &&& 0xF#4 = t from BitVec.and_allOnes]
  rfl

/-- Format `XY`: the top and bottom nibbles are left. -/
theorem mask_xy (t n : BitVec 4) (x y : RegNum) : wordXYN t x y n &&& 0xF00F#16 = wordXYN t 0 0 n := by
  have e : (0xF00F#16 : Opcode) = wordXYN 0xF#4 0#4 0#4 0xF#4 := by decide
  rw [e]
  refine (BitVec.and_append (x₁ := t) (x₂ := 0xF#4) (y₁ := x ++ (y ++ n)) (y₂ := 0#4 ++ (0#4 ++ 0xF#4))).trans ?_
  rw [BitVec.and_append, BitVec.and_append, BitVec.and_zero, BitVec.and_zero,
    show t &&& 0xF#4 = t from BitVec.and_allOnes, show n &&& 0xF#4 = n from BitVec.and_allOnes]
  rfl

/-- Format `X`: the top nibble and the low byte are left. -/
theorem mask_x (t : BitVec 4) (x : RegNum) (kk : Byte) : wordXKK t x kk &&& 0xF0FF#16 = wordXKK t 0 kk := by
  have e : (0xF0FF#16 : Opcode) = wordXKK 0xF#4 0#4 0xFF#8 := by decide
  rw [e]
  refine (BitVec.and_append (x₁ := t) (x₂ := 0xF#4) (y₁ := x ++ kk) (y₂ := 0#4 ++ 0xFF#8)).trans ?_
  rw [BitVec.and_append, BitVec.and_zero,
    show t &&& 0xF#4 = t from BitVec.and_allOnes, show kk &&& 0xFF#8 = kk from BitVec.and_allOnes]
  rfl

/-- The word of a well-formed instruction lies in the row of its mnemonic. -/
def EncodeInRow.Statement (i : Instr) : Prop :=
  i.wellFormed = true → ∃ row ∈ opcodeRows, row.1 = mnemonic i ∧ inRow (encode i) row = true

/-- The row found at a place of the map. -/
theorem rowAt {i : Instr} (k : Nat) (h : k < opcodeRows.length) (hm : (opcodeRows[k]).1 = mnemonic i)
    (hr : encode i &&& (opcodeRows[k]).2.2 = (opcodeRows[k]).2.1) : EncodeInRow.Statement i :=
  fun _ => ⟨opcodeRows[k], List.getElem_mem h, hm, by rw [inRow, hr]; exact beq_self_eq_true _⟩

theorem EncodeInRow.cls : EncodeInRow.Statement .cls :=
  rowAt 0 (by decide) rfl (by decide)
theorem EncodeInRow.ret : EncodeInRow.Statement .ret :=
  rowAt 1 (by decide) rfl (by decide)
theorem EncodeInRow.jp (nnn : Addr12) : EncodeInRow.Statement (.jp nnn) :=
  rowAt 2 (by decide) rfl ((mask_nnn _ _).trans (by decide))
theorem EncodeInRow.call (nnn : Addr12) : EncodeInRow.Statement (.call nnn) :=
  rowAt 3 (by decide) rfl ((mask_nnn _ _).trans (by decide))
theorem EncodeInRow.sei (x : RegNum) (kk : Byte) : EncodeInRow.Statement (.sei x kk) :=
  rowAt 4 (by decide) rfl ((mask_nnn _ (x ++ kk)).trans (by decide))
theorem EncodeInRow.snei (x : RegNum) (kk : Byte) : EncodeInRow.Statement (.snei x kk) :=
  rowAt 5 (by decide) rfl ((mask_nnn _ (x ++ kk)).trans (by decide))
theorem EncodeInRow.ser (x : RegNum) (y : RegNum) : EncodeInRow.Statement (.ser x y) :=
  rowAt 6 (by decide) rfl ((mask_xy _ _ _ _).trans (by decide))
theorem EncodeInRow.ldi (x : RegNum) (kk : Byte) : EncodeInRow.Statement (.ldi x kk) :=
  rowAt 7 (by decide) rfl ((mask_nnn _ (x ++ kk)).trans (by decide))
theorem EncodeInRow.addi (x : RegNum) (kk : Byte) : EncodeInRow.Statement (.addi x kk) :=
  rowAt 8 (by decide) rfl ((mask_nnn _ (x ++ kk)).trans (by decide))
theorem EncodeInRow.mov (x : RegNum) (y : RegNum) : EncodeInRow.Statement (.mov x y) :=
  rowAt 9 (by decide) rfl ((mask_xy _ _ _ _).trans (by decide))
theorem EncodeInRow.or (x : RegNum) (y : RegNum) : EncodeInRow.Statement (.or x y) :=
  rowAt 10 (by decide) rfl ((mask_xy _ _ _ _).trans (by decide))
theorem EncodeInRow.and (x : RegNum) (y : RegNum) : EncodeInRow.Statement (.and x y) :=
  rowAt 11 (by decide) rfl ((mask_xy _ _ _ _).trans (by decide))
theorem EncodeInRow.xor (x : RegNum) (y : RegNum) : EncodeInRow.Statement (.xor x y) :=
  rowAt 12 (by decide) rfl ((mask_xy _ _ _ _).trans (by decide))
theorem EncodeInRow.add (x : RegNum) (y : RegNum) : EncodeInRow.Statement (.add x y) :=
  rowAt 13 (by decide) rfl ((mask_xy _ _ _ _).trans (by decide))
theorem EncodeInRow.sub (x : RegNum) (y : RegNum) : EncodeInRow.Statement (.sub x y) :=
  rowAt 14 (by decide) rfl ((mask_xy _ _ _ _).trans (by decide))
theorem EncodeInRow.shl6 (x : RegNum) (y : RegNum) : EncodeInRow.Statement (.shl6 x y) :=
  rowAt 15 (by decide) rfl ((mask_xy _ _ _ _).trans (by decide))
theorem EncodeInRow.subf (x : RegNum) (y : RegNum) : EncodeInRow.Statement (.subf x y) :=
  rowAt 16 (by decide) rfl ((mask_xy _ _ _ _).trans (by decide))
theorem EncodeInRow.shle (x : RegNum) (y : RegNum) : EncodeInRow.Statement (.shle x y) :=
  rowAt 17 (by decide) rfl ((mask_xy _ _ _ _).trans (by decide))
theorem EncodeInRow.sner (x : RegNum) (y : RegNum) : EncodeInRow.Statement (.sner x y) :=
  rowAt 18 (by decide) rfl ((mask_xy _ _ _ _).trans (by decide))
theorem EncodeInRow.ldidx (nnn : Addr12) : EncodeInRow.Statement (.ldidx nnn) :=
  rowAt 19 (by decide) rfl ((mask_nnn _ _).trans (by decide))
theorem EncodeInRow.jpv0 (nnn : Addr12) : EncodeInRow.Statement (.jpv0 nnn) :=
  rowAt 20 (by decide) rfl ((mask_nnn _ _).trans (by decide))
theorem EncodeInRow.rnd (x : RegNum) (kk : Byte) : EncodeInRow.Statement (.rnd x kk) :=
  rowAt 21 (by decide) rfl ((mask_nnn _ (x ++ kk)).trans (by decide))
theorem EncodeInRow.drw (x : RegNum) (y : RegNum) (n : Nat) : EncodeInRow.Statement (.drw x y n) :=
  rowAt 22 (by decide) rfl ((mask_nnn _ (x ++ (y ++ BitVec.ofNat 4 n))).trans (by decide))
theorem EncodeInRow.skp (x : RegNum) : EncodeInRow.Statement (.skp x) :=
  rowAt 23 (by decide) rfl ((mask_x _ _ _).trans (by decide))
theorem EncodeInRow.sknp (x : RegNum) : EncodeInRow.Statement (.sknp x) :=
  rowAt 24 (by decide) rfl ((mask_x _ _ _).trans (by decide))
theorem EncodeInRow.lddt (x : RegNum) : EncodeInRow.Statement (.lddt x) :=
  rowAt 25 (by decide) rfl ((mask_x _ _ _).trans (by decide))
theorem EncodeInRow.wkey (x : RegNum) : EncodeInRow.Statement (.wkey x) :=
  rowAt 26 (by decide) rfl ((mask_x _ _ _).trans (by decide))
theorem EncodeInRow.stdt (x : RegNum) : EncodeInRow.Statement (.stdt x) :=
  rowAt 27 (by decide) rfl ((mask_x _ _ _).trans (by decide))
theorem EncodeInRow.stst (x : RegNum) : EncodeInRow.Statement (.stst x) :=
  rowAt 28 (by decide) rfl ((mask_x _ _ _).trans (by decide))
theorem EncodeInRow.addidx (x : RegNum) : EncodeInRow.Statement (.addidx x) :=
  rowAt 29 (by decide) rfl ((mask_x _ _ _).trans (by decide))
theorem EncodeInRow.ldfont (x : RegNum) : EncodeInRow.Statement (.ldfont x) :=
  rowAt 30 (by decide) rfl ((mask_x _ _ _).trans (by decide))
theorem EncodeInRow.bcd (x : RegNum) : EncodeInRow.Statement (.bcd x) :=
  rowAt 31 (by decide) rfl ((mask_x _ _ _).trans (by decide))
theorem EncodeInRow.stm (x : RegNum) : EncodeInRow.Statement (.stm x) :=
  rowAt 32 (by decide) rfl ((mask_x _ _ _).trans (by decide))
theorem EncodeInRow.ldm (x : RegNum) : EncodeInRow.Statement (.ldm x) :=
  rowAt 33 (by decide) rfl ((mask_x _ _ _).trans (by decide))

end Sys2Proof.Laws
end

