-- ==== Sys2Proof/Laws/Step.lean ====
section
/-! SUPPORT. What fetch, execute and a step can do: the scan of the keys, the placed word, and the shape of every
outcome. -/

namespace Sys2Proof.Machine

variable (s : State)

/-! ### The keypad scan -/

theorem State.lowestKey_of_lowestPressed {k : Nat} (h : lowestPressed s k) : s.lowestKey = some k := by
  obtain ⟨h1, h2, h3⟩ := h
  simp only [State.lowestKey, List.findIdx?_eq_some_iff_getElem]
  refine ⟨by simpa using h1, by simpa [State.key, h1] using h2, fun j hj => ?_⟩
  have hk := h3 j hj
  have hj' : j < 16 := by omega
  simpa [State.key, hj'] using hk

theorem State.lowestKey_eq_none (h : ∀ k < 16, s.key k = false) : s.lowestKey = none := by
  simp only [State.lowestKey, List.findIdx?_eq_none_iff]
  intro b hb
  obtain ⟨i, hi, rfl⟩ := List.mem_iff_getElem.mp hb
  have hi' : i < 16 := by simpa using hi
  simpa [State.key, hi'] using h i hi'

theorem State.lowestPressed_of_lowestKey {k : Nat} (h : s.lowestKey = some k) : lowestPressed s k := by
  simp only [State.lowestKey, List.findIdx?_eq_some_iff_getElem] at h
  obtain ⟨h1, h2, h3⟩ := h
  have hk : k < 16 := by simpa using h1
  refine ⟨hk, by simpa [State.key, hk] using h2, fun j hj => ?_⟩
  have hj' : j < 16 := by omega
  simpa [State.key, hj'] using h3 j hj

/-! ### The bounds of Machine/Operands.lean, as propositions -/

theorem State.dataOut_iff (n : Nat) : s.dataOut n = true ↔ 0 < n ∧ 4095 < s.index.toNat + (n - 1) := decide_eq_true_iff

theorem State.stackFull_iff : s.stackFull = true ↔ 16 ≤ s.sp.toNat := decide_eq_true_iff

theorem State.stackEmpty_iff : s.stackEmpty = true ↔ s.sp.toNat = 0 ∨ 16 < s.sp.toNat := decide_eq_true_iff

theorem State.keyOut_iff (x : RegNum) : s.keyOut x = true ↔ 15 < (s.reg x).toNat := decide_eq_true_iff

/-! ### Flag, then result -/

/-- A register after a flag and a result: the result wins where the destination is VF. -/
theorem State.reg_setFlagThenReg (c : Bool) (x y : RegNum) (b : Byte) :
    (s.setFlagThenReg c x b).reg y = if y = x then b else if y = VF then (if c then 1 else 0) else s.reg y := by
  simp only [State.setFlagThenReg, State.setFlag, State.reg_setReg]

/-! ### Fetch -/

/-- Fetch at a pc in range answers the two bytes there. -/
theorem fetch_of_le (h : s.pc.toNat ≤ 4094) :
    fetch s = .ok [s.readByte s.pc.toNat, s.readByte (s.pc.toNat + 1)] := by
  simp [fetch, Nat.not_lt.mpr h]

/-- A placed word is what the next fetch reads. -/
theorem fetch_placeOpcode (op : Opcode) (h : s.pc.toNat ≤ 4094) :
    fetch (s.placeOpcode op) = .ok (opcodeBytes op) := by
  have e : (s.placeOpcode op).pc = s.pc := by simp [State.placeOpcode]
  have rb : ∀ a, (s.placeOpcode op).readByte a = (s.storeBytes s.pc.toNat (opcodeBytes op)).readByte a := fun _ => rfl
  rw [fetch_of_le _ (by rw [e]; exact h), e]
  simp [rb, State.readByte_storeBytes, opcodeBytes]

/-! ### The shape of an outcome -/

/-- A meaning that may raise one fault: it answers the raised state or its effect, a next state either way. -/
theorem ite_takeFault (c : Bool) (f : Fault) (t : State) :
    ∃ u, (if c then takeFault s f else .next t : Result) = .next u ∧ ((c = true ∧ u = s.raise f) ∨ (c = false ∧ u = t)) := by
  cases c
  · exact ⟨t, rfl, .inr ⟨rfl, rfl⟩⟩
  · exact ⟨s.raise f, rfl, .inl ⟨rfl, rfl⟩⟩

/-- Execute always answers a next state: it raises a fault, which changes nothing but the latch, or it leaves the
latch as it was. -/
theorem exec_next (i : Instr) : ∃ t, exec i s = .next t ∧ ((∃ f, t = s.raise f) ∨ t.fault = s.fault) := by
  have split : ∀ (c : Bool) (f : Fault) (t : State), t.fault = s.fault →
      ∃ u, (if c then takeFault s f else .next t : Result) = .next u ∧ ((∃ f, u = s.raise f) ∨ u.fault = s.fault) := by
    intro c f t ht
    obtain ⟨u, hu, ⟨_, rfl⟩ | ⟨_, rfl⟩⟩ := ite_takeFault s c f t
    · exact ⟨_, hu, .inl ⟨f, rfl⟩⟩
    · exact ⟨_, hu, .inr ht⟩
  cases i
  case ret => exact split _ _ _ rfl
  case call nnn => exact split _ _ _ rfl
  case drw x y n => exact split _ _ _ rfl
  case skp x => exact split _ _ _ rfl
  case sknp x => exact split _ _ _ rfl
  case bcd x => exact split _ _ _ (by simp [State.advance])
  case stm x => exact split _ _ _ (by simp [State.advance])
  case ldm x => exact split _ _ _ (by simp [State.advance])
  case wkey x =>
    simp only [exec, execWkey]
    cases s.lowestKey <;> exact ⟨_, rfl, .inr rfl⟩
  all_goals exact ⟨_, rfl, .inr rfl⟩

/-- The step of an unlatched core that has fetched and decoded `i`. -/
theorem step_of_fetchDecode {i : Instr} (hf : s.fault = none) (h : fetchDecode s = .ok i) :
    step s = retireResult (exec i s) := by
  simp [step, runStep, hf, runPhases, h]

/-- The step of an unlatched core whose fetch or decode faults. -/
theorem step_of_fetchFault {f : Fault} (hf : s.fault = none) (h : fetchDecode s = .error f) :
    step s = .next (s.raise f) := by
  simp [step, runStep, hf, runPhases, h, takeFault, retireResult, State.retire]

/-- The step of a latched core. -/
theorem step_of_latched {f : Fault} (h : s.fault = some f) : step s = .fault f := by
  simp [step, runStep, h]

/-! ### The byte supplied with a step -/

/-- Only RND uses the byte. -/
theorem execWith_of_ne_rnd (rand : Byte) {i : Instr} (h : ∀ x kk, i ≠ .rnd x kk) : execWith rand i s = exec i s := by
  cases i
  case rnd x kk => exact absurd rfl (h x kk)
  all_goals rfl

/-- The free byte supplied is the step without a supplied byte. -/
theorem execWith_randomByte (i : Instr) : execWith (Config.randomByte s.randDraws) i s = exec i s := by
  cases i <;> rfl

/-- Execute with a supplied byte has `exec_next`'s two outcomes. -/
theorem execWith_next (rand : Byte) (i : Instr) :
    ∃ t, execWith rand i s = .next t ∧ ((∃ f, t = s.raise f) ∨ t.fault = s.fault) := by
  by_cases h : ∀ x kk, i ≠ .rnd x kk
  · rw [execWith_of_ne_rnd s rand h]; exact exec_next s i
  · simp only [ne_eq, not_forall, not_not] at h
    obtain ⟨x, kk, rfl⟩ := h
    exact ⟨_, rfl, .inr rfl⟩

/-- `step(rand)` of an unlatched core that has fetched and decoded `i`. -/
theorem stepWith_of_fetchDecode (rand : Byte) {i : Instr} (hf : s.fault = none) (h : fetchDecode s = .ok i) :
    stepWith rand s = retireResult (execWith rand i s) := by
  simp [stepWith, runStep, hf, runPhases, h]

/-- `step(rand)` of an unlatched core whose fetch or decode faults. -/
theorem stepWith_of_fetchFault (rand : Byte) {f : Fault} (hf : s.fault = none) (h : fetchDecode s = .error f) :
    stepWith rand s = .next (s.raise f) := by
  simp [stepWith, runStep, hf, runPhases, h, takeFault, retireResult, State.retire]

/-- `step(rand)` of a latched core. -/
theorem stepWith_of_latched (rand : Byte) {f : Fault} (h : s.fault = some f) : stepWith rand s = .fault f := by
  simp [stepWith, runStep, h]

/-- `step` is `step(rand)` of the free byte. -/
theorem stepWith_randomByte : stepWith (Config.randomByte s.randDraws) s = step s := by
  unfold stepWith step runStep runPhases
  split
  · rfl
  · cases fetchDecode s <;> simp only [execWith_randomByte]

end Sys2Proof.Machine
end

