-- ==== Sys2Proof/Tests/Slice0.lean ====
section
/-! SUPPORT. Tests: the well-formedness check, one written-out word per constructor, single steps with the values of
95_test_vectors.md, and one witness per statement that has hypotheses. -/

namespace Sys2Proof.Tests

open Sys2Proof.Machine

/-! ### Helpers -/

/-- The launch state of 95_test_vectors.md with an opcode at 0x200. -/
def at200 (op : Nat) : State := State.reset.withFetchWord 16 op

/-- The same opcode with registers, given as number and value. -/
def withRegs (s : State) : List (RegNum × Byte) → State
  | [] => s
  | (x, b) :: l => withRegs (s.setReg x b) l

/-- The pressed keys of a state. -/
def pressing (s : State) (l : List Nat) : State := s.setKeys (Vector.ofFn fun k => l.contains k.val)

/-- The lit pixels of a framebuffer. -/
def lit (l : List Nat) : Framebuffer := l.foldl (fun f k => f ||| BitVec.twoPow 2048 k) 0

/-- The next state, where there is one. -/
def nextOf : Result → Option State
  | .next t => some t
  | .fault _ => none
  | .refused _ => none

/-- What a test looks at after one step. -/
def after {α : Type} (s : State) (look : State → α) : Option α := (nextOf (step s)).map look

/-! ### Well-formedness: the one check, at its two sides -/

theorem test_wellformed_drw_15 : (Instr.drw 0 1 15).wellFormed = true := by decide

theorem test_illformed_drw_16 : (Instr.drw 0 1 16).wellFormed = false := by decide

/-! ### Decoding: one word per constructor, nibble by nibble from the patterns of 30_encoding.md R66 -/

theorem test_decode_cls : decodeWord 0x00E0 = some (.cls) := by decide

theorem test_decode_ret : decodeWord 0x00EE = some (.ret) := by decide

theorem test_decode_jp : decodeWord 0x1ABC = some (.jp 0xABC) := by decide

theorem test_decode_call : decodeWord 0x220A = some (.call 0x20A) := by decide

theorem test_decode_sei : decodeWord 0x332A = some (.sei 3 0x2A) := by decide

theorem test_decode_snei : decodeWord 0x432B = some (.snei 3 0x2B) := by decide

theorem test_decode_ser : decodeWord 0x5120 = some (.ser 1 2) := by decide

theorem test_decode_ldi : decodeWord 0x6F7B = some (.ldi 15 0x7B) := by decide

theorem test_decode_addi : decodeWord 0x72FF = some (.addi 2 0xFF) := by decide

theorem test_decode_mov : decodeWord 0x8120 = some (.mov 1 2) := by decide

theorem test_decode_or : decodeWord 0x8341 = some (.or 3 4) := by decide

theorem test_decode_and : decodeWord 0x8562 = some (.and 5 6) := by decide

theorem test_decode_xor : decodeWord 0x8783 = some (.xor 7 8) := by decide

theorem test_decode_add : decodeWord 0x89A4 = some (.add 9 10) := by decide

theorem test_decode_sub : decodeWord 0x8BC5 = some (.sub 11 12) := by decide

theorem test_decode_shl6 : decodeWord 0x83A6 = some (.shl6 3 10) := by decide

theorem test_decode_subf : decodeWord 0x8DE7 = some (.subf 13 14) := by decide

theorem test_decode_shle : decodeWord 0x8F1E = some (.shle 15 1) := by decide

theorem test_decode_sner : decodeWord 0x9120 = some (.sner 1 2) := by decide

theorem test_decode_ldidx : decodeWord 0xA300 = some (.ldidx 0x300) := by decide

theorem test_decode_jpv0 : decodeWord 0xBFED = some (.jpv0 0xFED) := by decide

theorem test_decode_rnd : decodeWord 0xC10F = some (.rnd 1 0x0F) := by decide

theorem test_decode_drw : decodeWord 0xD125 = some (.drw 1 2 5) := by decide

theorem test_decode_skp : decodeWord 0xE29E = some (.skp 2) := by decide

theorem test_decode_sknp : decodeWord 0xE2A1 = some (.sknp 2) := by decide

theorem test_decode_lddt : decodeWord 0xF107 = some (.lddt 1) := by decide

theorem test_decode_wkey : decodeWord 0xF30A = some (.wkey 3) := by decide

theorem test_decode_stdt : decodeWord 0xF115 = some (.stdt 1) := by decide

theorem test_decode_stst : decodeWord 0xF118 = some (.stst 1) := by decide

theorem test_decode_addidx : decodeWord 0xFF1E = some (.addidx 15) := by decide

theorem test_decode_ldfont : decodeWord 0xF029 = some (.ldfont 0) := by decide

theorem test_decode_bcd : decodeWord 0xF533 = some (.bcd 5) := by decide

theorem test_decode_stm : decodeWord 0xF255 = some (.stm 2) := by decide

theorem test_decode_ldm : decodeWord 0xF265 = some (.ldm 2) := by decide

/-- T-FLT-2: illegal words. -/
theorem test_decode_illegal : [0x0000, 0x00E1, 0x00FF, 0x0123, 0x8008, 0x800F, 0x5121, 0x9001, 0xE09F, 0xE0A0, 0xF000,
    0xF11F, 0xF175, 0xFFFF].all (fun op => decodeWord op == none) = true := by decide

/-- Two bytes are taken, the rest is left. -/
theorem test_decode_rest : decode [0x60, 0x05, 0x12] = .ok (.ldi 0 5, [0x12]) := by rfl

/-- One byte is not an instruction. -/
theorem test_decode_short : decode [0x60] = .error (.tooFewBytes 1) := by rfl

/-! ### Single steps (the vector's name stands in each comment) -/

/-- S6: V0 = 5, pc = 0x202. -/
theorem test_ldi :
    after (at200 0x6005) (fun t => (t.reg 0, t.pc)) = some (5, 0x202) := by decide

/-- T-ALU-32. -/
theorem test_ldi_vf :
    after (at200 0x6F7B) (fun t => t.reg 15) = some 0x7B := by decide

/-- T-CF-1. -/
theorem test_jp :
    after (at200 0x1ABC) (fun t => (t.pc, t.sp)) = some (0x0ABC, 0) := by decide

/-- T-CF-5: not reduced to 12 bits. -/
theorem test_jpv0 :
    after ((at200 0xBFFF).setReg 0 0xFF) (fun t => t.pc) = some 0x10FE := by decide

/-- T-CF-4. -/
theorem test_jpv0_v0 :
    after ((at200 0xB300).setReg 0 0x04) (fun t => t.pc) = some 0x0304 := by decide

/-- T-CF-6: the call's own address is pushed. -/
theorem test_call :
    after ((State.reset.setPc 0x202).withFetchWord 16 0x220A) (fun t => (t.stackEntry 0, t.sp, t.pc)) = some (0x0202, 1, 0x020A) := by decide

/-- T-CF-8. -/
theorem test_call_overflow :
    after (((at200 0x2300).setSp 16).setStackEntry 15 0x0ABC) (fun t => (t.fault, t.pc, t.sp, t.stackEntry 15)) = some (some .stackOverflow, 0x0200, 16, 0x0ABC) := by decide

/-- T-CF-9: the popped entry stays. -/
theorem test_ret :
    after (((State.reset.setPc 0x20C).withFetchWord 16 0x00EE).setSp 1 |>.setStackEntry 0 0x0202) (fun t => (t.sp, t.pc, t.stackEntry 0)) = some (0, 0x0204, 0x0202) := by decide

/-- T-CF-10. -/
theorem test_ret_underflow :
    after (at200 0x00EE) (fun t => (t.fault, t.pc, t.sp)) = some (some .stackUnderflow, 0x0200, 0) := by decide

/-- T-CF-12. -/
theorem test_sei_skip :
    after ((at200 0x332A).setReg 3 0x2A) (fun t => t.pc) = some 0x0204 := by decide

/-- T-CF-13. -/
theorem test_sei_no_skip :
    after ((at200 0x332B).setReg 3 0x2A) (fun t => t.pc) = some 0x0202 := by decide

/-- T-CF-14. -/
theorem test_snei_no_skip :
    after ((at200 0x432A).setReg 3 0x2A) (fun t => t.pc) = some 0x0202 := by decide

/-- T-CF-15. -/
theorem test_snei_skip :
    after ((at200 0x432B).setReg 3 0x2A) (fun t => t.pc) = some 0x0204 := by decide

/-- T-CF-16. -/
theorem test_ser_skip :
    after (withRegs (at200 0x5120) [(1, 7), (2, 7)]) (fun t => t.pc) = some 0x0204 := by decide

/-- T-CF-17. -/
theorem test_ser_no_skip :
    after (withRegs (at200 0x5120) [(1, 7), (2, 8)]) (fun t => t.pc) = some 0x0202 := by decide

/-- T-CF-19. -/
theorem test_sner_skip :
    after (withRegs (at200 0x9120) [(1, 7), (2, 8)]) (fun t => t.pc) = some 0x0204 := by decide

/-- T-CF-20. -/
theorem test_sner_no_skip :
    after (withRegs (at200 0x9120) [(1, 7), (2, 7)]) (fun t => t.pc) = some 0x0202 := by decide

/-- T-ALU-31. -/
theorem test_addi_wraps :
    after (withRegs (at200 0x7220) [(2, 0xF0), (15, 9)]) (fun t => (t.reg 2, t.reg 15)) = some (0x10, 9) := by decide

/-- T-ALU-41. -/
theorem test_mov :
    after (withRegs (at200 0x8010) [(0, 0x11), (1, 0x22), (15, 7)]) (fun t => (t.reg 0, t.reg 1, t.reg 15)) = some (0x22, 0x22, 7) := by decide

/-- T-ALU-42. -/
theorem test_or :
    after (withRegs (at200 0x8011) [(0, 0xF0), (1, 0x0F), (15, 7)]) (fun t => (t.reg 0, t.reg 15)) = some (0xFF, 7) := by decide

/-- T-ALU-43. -/
theorem test_and :
    after (withRegs (at200 0x8012) [(0, 0xF3), (1, 0x3F), (15, 7)]) (fun t => (t.reg 0, t.reg 15)) = some (0x33, 7) := by decide

/-- T-ALU-44. -/
theorem test_xor :
    after (withRegs (at200 0x8013) [(0, 0xFF), (1, 0x0F), (15, 7)]) (fun t => (t.reg 0, t.reg 15)) = some (0xF0, 7) := by decide

/-- T-ALU-3: 255 is no carry. -/
theorem test_add_255 :
    after (withRegs (at200 0x8014) [(0, 0x80), (1, 0x7F)]) (fun t => (t.reg 0, t.reg 15)) = some (0xFF, 0) := by decide

/-- T-ALU-33: the sum overwrites the flag. -/
theorem test_add_vf :
    after (withRegs (at200 0x8F04) [(15, 0xFF), (0, 1)]) (fun t => t.reg 15) = some 0 := by decide

/-- T-ALU-8: equal operands give 0. -/
theorem test_sub_equal :
    after (withRegs (at200 0x8015) [(0, 7), (1, 7)]) (fun t => (t.reg 0, t.reg 15)) = some (0, 0) := by decide

/-- T-ALU-6. -/
theorem test_sub_greater :
    after (withRegs (at200 0x8015) [(0, 5), (1, 3)]) (fun t => (t.reg 0, t.reg 15)) = some (2, 1) := by decide

/-- T-ALU-14: the difference is not reversed. -/
theorem test_subf :
    after (withRegs (at200 0x8017) [(0, 3), (1, 5)]) (fun t => (t.reg 0, t.reg 15)) = some (0xFE, 1) := by decide

/-- T-ALU-13. -/
theorem test_subf_less :
    after (withRegs (at200 0x8017) [(0, 5), (1, 3)]) (fun t => (t.reg 0, t.reg 15)) = some (2, 0) := by decide

/-- T-ALU-24: left shift, old bit 0, y ignored. -/
theorem test_shl6 :
    after (withRegs (at200 0x83A6) [(3, 0x81), (10, 0x55)]) (fun t => (t.reg 3, t.reg 15, t.reg 10)) = some (2, 1, 0x55) := by decide

/-- T-ALU-20. -/
theorem test_shl6_bit7 :
    after ((at200 0x8306).setReg 3 0x80) (fun t => (t.reg 3, t.reg 15)) = some (0, 0) := by decide

/-- T-ALU-26. -/
theorem test_shle :
    after ((at200 0x830E).setReg 3 0x80) (fun t => (t.reg 3, t.reg 15)) = some (0, 1) := by decide

/-- T-ALU-25. -/
theorem test_shle_bit0 :
    after ((at200 0x830E).setReg 3 0x01) (fun t => (t.reg 3, t.reg 15)) = some (2, 0) := by decide

/-- T-ALU-46 and T-ALU-47's `rand = FF`, supplied by the driver to one and the same state: `RND V0, 0x0F`. -/
theorem test_rnd_supplied : (nextOf (stepWith 0xA7 (at200 0xC00F))).map (fun t => t.reg 0) = some 7 ∧
    (nextOf (stepWith 0xFF (at200 0xC00F))).map (fun t => t.reg 0) = some 0x0F := by decide

/-- T-ALU-47: with the mask 00 the result is 00 for every byte; here for the machine's free one. -/
theorem test_rnd_zero : after ((at200 0xC000).setReg 0 0x55) (fun t => t.reg 0) = some 0 := by
  show some ((Config.randomByte 0) &&& 0#8) = some 0#8
  rw [BitVec.and_zero]

/-- T-IM-1. -/
theorem test_ldidx :
    after (at200 0xAFFF) (fun t => t.index) = some 0x0FFF := by decide

/-- T-IM-6: the unwrapped sum sets the flag. -/
theorem test_addidx_wraps :
    after ((at200 0xF01E).setIndex 0xFFFF |>.setReg 0 1) (fun t => (t.index, t.reg 15)) = some (0, 1) := by decide

/-- T-IM-7: the old VF is the addend. -/
theorem test_addidx_vf :
    after ((at200 0xFF1E).setIndex 0x0F10 |>.setReg 15 0xF0) (fun t => (t.index, t.reg 15)) = some (0x1000, 1) := by decide

/-- T-IM-10: no nibble mask. -/
theorem test_ldfont :
    after ((at200 0xF029).setReg 0 0xFF) (fun t => t.index) = some 0x04FB := by decide

/-- T-IM-13: last legal I. -/
theorem test_bcd :
    after ((at200 0xF533).setIndex 0x0FFD |>.setReg 5 0xFF) (fun t => (t.readBytes 0xFFD 3, t.index)) = some ([2, 5, 5], 0x0FFD) := by decide

/-- T-IM-15: no partial store. -/
theorem test_bcd_out :
    after ((at200 0xF533).setIndex 0x0FFE |>.setReg 5 0xFF) (fun t => (t.fault, t.readBytes 0xFFE 2, t.pc)) = some (some (.dataOutOfBounds 0x1000), [0, 0], 0x200) := by decide

/-- T-IM-17. -/
theorem test_stm :
    after (withRegs ((at200 0xF255).setIndex 0x400) [(0, 0x11), (1, 0x22), (2, 0x33), (3, 0x44)]) (fun t => (t.readBytes 0x400 4, t.index)) = some ([0x11, 0x22, 0x33, 0], 0x400) := by decide

/-- T-IM-19: no partial store. -/
theorem test_stm_out :
    after (withRegs ((at200 0xF155).setIndex 0xFFF) [(0, 0x11), (1, 0x22)]) (fun t => (t.fault, t.readByte 0xFFF)) = some (some (.dataOutOfBounds 0x1000), 0) := by decide

/-- T-IM-22. -/
theorem test_ldm :
    after (((at200 0xF265).setIndex 0x400).storeBytes 0x400 [0xAA, 0xBB, 0xCC, 0xDD] |>.setReg 3 0x77) (fun t => (t.readRegs 4, t.index)) = some ([0xAA, 0xBB, 0xCC, 0x77], 0x400) := by decide

/-- T-DSP-27: VF is not touched. -/
theorem test_cls :
    after (((at200 0x00E0).setFb (lit [0, 100, 2047])).setReg 15 1) (fun t => (t.fb, t.reg 15)) = some (0, 1) := by decide +kernel

/-- T-DSP-11: the bit pattern A0 on three lit pixels. -/
theorem test_drw_collision :
    after (withRegs ((((at200 0xD011).setIndex 0x300).storeBytes 0x300 [0xA0]).setFb (lit [66, 67, 68])) [(0, 2), (1, 1)]) (fun t => (t.fb, t.reg 15)) = some (lit [67], 1) := by decide +kernel

/-- T-DSP-10: the second row is clipped. -/
theorem test_drw_clip :
    after (withRegs (((at200 0xD012).setIndex 0x300).storeBytes 0x300 [0xFF, 0xFF]) [(1, 31)]) (fun t => (t.fb, t.reg 15)) = some (lit [1984, 1985, 1986, 1987, 1988, 1989, 1990, 1991], 0) := by decide +kernel

/-- T-KT-3. -/
theorem test_skp :
    after (pressing ((at200 0xE29E).setReg 2 15) [15]) (fun t => t.pc) = some 0x204 := by decide

/-- T-KT-4: the index is not masked. -/
theorem test_skp_out :
    after (pressing ((at200 0xE29E).setReg 2 16) [0]) (fun t => (t.fault, t.pc)) = some (some (.keyIndexOutOfBounds 0x10), 0x200) := by decide

/-- T-KT-7. -/
theorem test_sknp :
    after ((at200 0xE2A1).setReg 2 5) (fun t => t.pc) = some 0x204 := by decide

/-- T-KT-6. -/
theorem test_sknp_pressed :
    after (pressing ((at200 0xE2A1).setReg 2 5) [5]) (fun t => t.pc) = some 0x202 := by decide

/-- T-KT-12: the lowest key. -/
theorem test_wkey :
    after (pressing (at200 0xF30A) [3, 9, 12]) (fun t => (t.reg 3, t.pc)) = some (3, 0x202) := by decide

/-- T-KT-13: the timers decay while waiting. -/
theorem test_wkey_waits :
    after ((((at200 0xF30A).setReg 3 0x99).setDt 5).setSt 1) (fun t => (t.reg 3, t.pc, t.dt, t.st)) = some (0x99, 0x200, 4, 0) := by decide

/-- T-KT-15: read before decay. -/
theorem test_lddt :
    after ((at200 0xF107).setDt 42) (fun t => (t.reg 1, t.dt)) = some (42, 41) := by decide

/-- T-KT-20. -/
theorem test_stdt :
    after ((at200 0xF115).setReg 1 0xFF) (fun t => t.dt) = some 254 := by decide

/-- T-KT-18. -/
theorem test_stdt_one :
    after ((at200 0xF115).setReg 1 1) (fun t => t.dt) = some 0 := by decide

/-- T-KT-21. -/
theorem test_stst :
    after ((at200 0xF118).setReg 1 16) (fun t => t.st) = some 15 := by decide

/-- T-FLT-1. -/
theorem test_illegal :
    after (State.reset) (fun t => (t.fault, t.pc)) = some (some (.illegalOpcode 0x0000), 0x200) := by decide

/-- T-FLT-6: no decay in a faulting step. -/
theorem test_fault_no_decay :
    after ((State.reset.setDt 3).setSt 1) (fun t => (t.dt, t.st)) = some (3, 1) := by decide

/-- T-FLT-3. -/
theorem test_fetch_bound :
    after (State.reset.setPc 0xFFF) (fun t => t.fault) = some (some (.fetchOutOfBounds 0xFFF)) := by decide

/-- T-FLT-4: 4094 is the last fetch address. -/
theorem test_fetch_last :
    after ((State.reset.setPc 0xFFE).withFetchWord 16 0x6005) (fun t => (t.reg 0, t.pc)) = some (5, 0x1000) := by decide

/-- T-KT-22: a value of 1 ticks in its own step. -/
theorem test_stst_tick : stepReport ((at200 0xF118).setReg 1 1) = some (.ok true) := by decide

/-- T-KT-24: a countdown cut short gives no tick. -/
theorem test_stst_zero_no_tick : stepReport ((at200 0xF118).setSt 9) = some (.ok false) := by decide

/-- T-KT-26: the last count ticks. -/
theorem test_tick : stepReport ((at200 0x6005).setSt 1) = some (.ok true) := by decide

/-- T-FLT-8: a latched core answers its fault. -/
theorem test_latched : stepReport (State.reset.raise .stackOverflow) = some (.fault .stackOverflow) := by decide

/-- T-DSP-21: glyph 0 of the default font. -/
theorem test_font_glyph_0 : State.reset.readBytes 0 5 = [0xF0, 0x90, 0x90, 0x90, 0xF0] := by decide

/-- T-DSP-22: glyph 5 of the default font. -/
theorem test_font_glyph_5 : State.reset.readBytes 0x19 5 = [0xF0, 0x80, 0xF0, 0x10, 0xF0] := by decide

/-- The host's two plain definitions evaluate on numerals. -/
theorem test_decodeTableWord : decodeTableWord 16 0xF265 = some (.ldm 2) := by decide

theorem test_withFetchWord : (State.reset.withFetchWord 16 0xF265).mem = [(0x200, 0xF2), (0x201, 0x65)] := by decide

/-! ### Witnesses: a concrete input for the hypotheses of each statement, one per clause, at boundary values -/

/-- A state ready to run `LDI V0, 5`, with a memory that lists bytes. -/
def wStep : State := State.reset.withFetchWord 16 0x6005

theorem witness_DecodeOfEncode : (Instr.drw 0xF 0xF 15).wellFormed = true := by decide

theorem witness_EncodeOfDecode : decodeWord 0xDFFF = some (.drw 0xF 0xF 15) := by decide

theorem witness_LegalExactlyInOneRow :
    ("LDM", 0xF065, 0xF0FF) ∈ opcodeRows ∧ decodeWord 0xFF65 = some (.ldm 0xF) := by decide

theorem witness_ResetValues : (79 < 80) ∧ (0x050 ≤ 0xFFF) ∧ (15 < 16) ∧ (2047 < 2048) := by decide

theorem witness_InitializeFromAnyState : (79 < 80) ∧ (0x050 ≤ 0xFFF) ∧ (15 < 16) ∧ (2047 < 2048) := by decide

theorem witness_bit_and_pixel_bounds : (7 < 8) ∧ (2047 < 2048) ∧ (15 < 16) := by decide

theorem witness_StepKeepsInvariant : wStep.Inv ∧ ∃ t, step wStep = .next t :=
  ⟨⟨by decide, by decide, by decide, by decide⟩, _, rfl⟩

theorem witness_StepKeepsInvariant_edge : ((wStep.setSp 16).setPc 0x10FE).Inv ∧
    ∃ t, step ((wStep.setSp 16).setPc 0x10FE) = .next t :=
  ⟨⟨by decide, by decide, by decide, by decide⟩, _, rfl⟩

theorem witness_StepKeepsInvariant_supplied : (at200 0xC00F).Inv ∧ ∃ t, stepWith 0xA7 (at200 0xC00F) = .next t :=
  ⟨⟨by decide, by decide, by decide, by decide⟩, _, rfl⟩

theorem witness_FetchIsBigEndian : (wStep.setPc 4094).pc.toNat ≤ 4094 := by decide

theorem witness_StepRunsDecodedInstruction : wStep.fault = none ∧ wStep.pc.toNat ≤ 4094 ∧
    decode [wStep.readByte wStep.pc.toNat, wStep.readByte (wStep.pc.toNat + 1)] = .ok (.ldi 0 5, []) ∧
    (Instr.ldi 0 5).wellFormed = true ∧ ∃ t, exec (.ldi 0 5) wStep = .next t ∧ t.fault = none :=
  ⟨rfl, by decide, rfl, rfl, _, rfl, rfl⟩

theorem witness_StepRunsDecodedInstruction_fault : (at200 0x00EE).fault = none ∧ (at200 0x00EE).pc.toNat ≤ 4094 ∧
    decode [(at200 0x00EE).readByte (at200 0x00EE).pc.toNat, (at200 0x00EE).readByte ((at200 0x00EE).pc.toNat + 1)] =
      .ok (.ret, []) ∧
    Instr.ret.wellFormed = true ∧ ∃ t, exec .ret (at200 0x00EE) = .next t ∧ t.fault = some .stackUnderflow :=
  ⟨rfl, by decide, rfl, rfl, _, rfl, rfl⟩

theorem witness_PlacedWordRunsNext :
    (State.reset.setPc 4094).pc.toNat ≤ 4094 ∧ (Instr.drw 1 2 15).wellFormed = true := by decide

theorem witness_FetchBoundFault :
    (State.reset.setPc 4095).fault = none ∧ 4094 < (State.reset.setPc 4095).pc.toNat := by decide

theorem witness_IllegalOpcodeFault : (at200 0x5121).fault = none ∧ (at200 0x5121).pc.toNat ≤ 4094 ∧
    illegalSet ((at200 0x5121).readByte (at200 0x5121).pc.toNat ++
      (at200 0x5121).readByte ((at200 0x5121).pc.toNat + 1)) = true := by decide

theorem witness_LatchedCoreAnswersItsFault :
    (State.reset.raise (.illegalOpcode 0)).fault = some (.illegalOpcode 0) := by decide

theorem witness_FaultsArePrecise : (State.reset.setDt 3).fault = none ∧
    ∃ t, step (State.reset.setDt 3) = .next t ∧ t.fault = some (.illegalOpcode 0) :=
  ⟨rfl, _, rfl, rfl⟩

theorem witness_FaultsArePrecise_supplied : (State.reset.setDt 3).fault = none ∧
    ∃ t, stepWith 0xA7 (State.reset.setDt 3) = .next t ∧ t.fault = some (.illegalOpcode 0) :=
  ⟨rfl, _, rfl, rfl⟩

theorem witness_ExecuteFaultCauses : (State.reset.setSp 16).sp.toNat ≤ 16 ∧ (State.reset.setSp 16).fault = none ∧
    faultOf (.call 0x300) (State.reset.setSp 16) = some .stackOverflow := by decide

theorem witness_ExecuteFaultCauses_none : State.reset.sp.toNat ≤ 16 ∧ State.reset.fault = none ∧
    faultOf .cls State.reset = none := by decide

theorem witness_UnlatchedStepAnswersNext : State.reset.fault = none ∧ wStep.fault = none := by decide

theorem witness_PcAfterEveryInstruction : wStep.fault = none ∧
    ∃ t, exec (.jpv0 0xFFF) wStep = .next t ∧ t.fault = none :=
  ⟨rfl, _, rfl, rfl⟩

theorem witness_PcAfterEveryInstruction_fault : wStep.fault = none ∧
    ∃ t, exec .ret wStep = .next t ∧ t.fault ≠ none :=
  ⟨rfl, _, rfl, by decide⟩

theorem witness_WritersOfEveryItem : wStep.fault = none ∧
    ∃ t, exec (.add 0xF 0) wStep = .next t ∧ t.fault = none :=
  ⟨rfl, _, rfl, rfl⟩

theorem witness_TimersDecayEachStep : (at200 0xF115).fault = none ∧ fetchDecode (at200 0xF115) = .ok (.stdt 1) ∧
    ∃ t, step (at200 0xF115) = .next t ∧ t.fault = none :=
  ⟨rfl, rfl, _, rfl, rfl⟩

theorem witness_TimersDecayEachStep_supplied : (at200 0xC00F).fault = none ∧
    fetchDecode (at200 0xC00F) = .ok (.rnd 0 0x0F) ∧ ∃ t, t.fault = none ∧ stepWith 0xA7 (at200 0xC00F) = .next t :=
  ⟨rfl, rfl, _, rfl, rfl⟩

theorem witness_ToneTickOnLastCount : ((at200 0xF118).setReg 1 1).fault = none ∧
    fetchDecode ((at200 0xF118).setReg 1 1) = .ok (.stst 1) ∧ stAtDecay (.stst 1) ((at200 0xF118).setReg 1 1) = 1 ∧
    ∃ t, step ((at200 0xF118).setReg 1 1) = .next t ∧ t.fault = none :=
  ⟨rfl, rfl, by decide, _, rfl, rfl⟩

theorem witness_ToneTickOnLastCount_fault : (at200 0x00EE).fault = none ∧
    fetchDecode (at200 0x00EE) = .ok .ret ∧
    ∃ t, step (at200 0x00EE) = .next t ∧ t.fault = some .stackUnderflow :=
  ⟨rfl, rfl, _, rfl, rfl⟩

/-- Two states with one call level in use that differ in a stale entry. -/
theorem witness_StaleStackUnobservable : (wStep.setSp 1).sp.toNat ≤ 16 ∧
    SameButStale (wStep.setSp 1) ((wStep.setSp 1).setStackEntry 1 0x222) ∧
    wStep.setSp 1 ≠ (wStep.setSp 1).setStackEntry 1 0x222 :=
  ⟨by decide, ⟨⟨_, rfl⟩, by decide⟩, by decide⟩

theorem witness_OnlyRandomReadsDraws : ∀ x kk, (Instr.drw 0 0 1) ≠ .rnd x kk := by
  intro x kk h; cases h

theorem witness_SkipsOnImmediate : State.reset.reg 3 = 0 ∧ State.reset.reg 3 ≠ 0xFF := by decide

theorem witness_SkipsOnRegisters : State.reset.reg 3 = State.reset.reg 15 ∧
    (State.reset.setReg 3 1).reg 3 ≠ (State.reset.setReg 3 1).reg 15 ∧ (0xF#4 ≠ 0) := by decide

theorem witness_CallPushesOwnAddress :
    (State.reset.setSp 15).sp.toNat < 16 ∧ (State.reset.setSp 16).sp.toNat = 16 := by decide

theorem witness_ReturnPopsAndAddsTwo : 1 ≤ (State.reset.setSp 1).sp.toNat ∧ (State.reset.setSp 16).sp.toNat ≤ 16 ∧
    State.reset.sp.toNat = 0 := by decide

theorem witness_CallThenReturnResumes : (State.reset.setSp 15).sp.toNat < 16 ∧
    ∃ t, exec (.call 0x300) (State.reset.setSp 15) = .next t ∧
      ((t.setReg 3 7).setPc 0x40E).sp = t.sp ∧ ((t.setReg 3 7).setPc 0x40E).stackEntry 15 = t.stackEntry 15 :=
  ⟨by decide, _, rfl, rfl, rfl⟩

theorem witness_AddWithCarryFlag : (0xE : RegNum) ≠ VF := by decide

theorem witness_SubtractWithStrictFlag : (0x0 : RegNum) ≠ VF := by decide

theorem witness_ShiftsLeftWithFlag : (0x7 : RegNum) ≠ VF := by decide

theorem witness_RandomMasked : (0x0F : Byte).getLsbD 7 = false ∧ 7 < 8 := by decide

theorem witness_BcdStoresDigits : (State.reset.setIndex 4093).index.toNat + 2 ≤ 4095 := by decide

theorem witness_StoreRegistersBlock : (State.reset.setIndex 4080).index.toNat + (0xF : RegNum).toNat ≤ 4095 ∧
    (0xF : RegNum).toNat ≤ (0xF : RegNum).toNat := by decide

theorem witness_LoadRegistersBlock : (State.reset.setIndex 4095).index.toNat + (0x0 : RegNum).toNat ≤ 4095 ∧
    (0x0 : RegNum).toNat ≤ (0x0 : RegNum).toNat ∧ (0x0 : RegNum).toNat < (0x1 : RegNum).toNat := by decide

theorem witness_StoreThenLoadBlock : (State.reset.setIndex 4080).index.toNat + (0xF : RegNum).toNat ≤ 4095 := by decide

theorem witness_DataBoundFaults_bcd : 4095 < (State.reset.setIndex 4094).index.toNat + 2 := by decide

theorem witness_DataBoundFaults_block : 4095 < (State.reset.setIndex 4095).index.toNat + (0x1 : RegNum).toNat := by decide

theorem witness_DataBoundFaults_draw : 1 ≤ 1 ∧ 4095 < (State.reset.setIndex 4096).index.toNat + (1 - 1) := by decide

theorem witness_StoresSeenByNextFetch : (State.reset.setIndex 0x202).index.toNat + (0x1 : RegNum).toNat ≤ 4095 ∧
    0 + 1 ≤ (0x1 : RegNum).toNat ∧
    (State.reset.setIndex 0x202).pc.toNat + 2 = (State.reset.setIndex 0x202).index.toNat + 0 := by decide

/-- A state with the sprite byte 0xA0 at I = 0xFFF, to be drawn at column 2 of row 1, and pixel 66 lit. -/
def wDraw : State :=
  withRegs (((State.reset.setIndex 0xFFF).storeBytes 0xFFF [0xA0]).setFb (BitVec.twoPow 2048 66)) [(0, 2), (1, 1)]

theorem witness_DrawClosedForm : wDraw.index.toNat + (1 - 1) ≤ 4095 := by decide

theorem witness_DrawClosedForm_no_rows : 0 = 0 ∨ (State.reset.setIndex 0x1FFF).index.toNat + (0 - 1) ≤ 4095 := by
  decide

/-- Pixel 66 is covered and lit: a collision. -/
theorem witness_DrawClosedForm_covered : covers wDraw 0 1 1 66 ∧ wDraw.pixel 66 = true :=
  ⟨⟨0, by decide, 0, by decide, by decide +kernel, by decide +kernel⟩, by decide +kernel⟩

/-- The sprite bit aimed at pixel 67 is 0: it is not covered. -/
theorem witness_DrawClosedForm_not_covered : ¬covers wDraw 0 1 1 67 := by
  unfold covers
  decide +kernel

/-- With no rows nothing is covered, so there is no collision. -/
theorem witness_DrawClosedForm_no_collision : ¬∃ k < 2048, covers wDraw 0 1 0 k ∧ wDraw.pixel k = true := by
  rintro ⟨k, _, ⟨row, hrow, _⟩, _⟩
  exact Nat.not_lt_zero row hrow

theorem witness_DrawTwiceRestores : (0 : RegNum) ≠ VF ∧ (1 : RegNum) ≠ VF ∧ wDraw.index.toNat + (1 - 1) ≤ 4095 := by
  decide

/-- Pixel 68 is covered and dark before the first draw. -/
theorem witness_DrawTwiceRestores_dark : covers wDraw 0 1 1 68 ∧ wDraw.pixel 68 = false :=
  ⟨⟨0, by decide, 2, by decide, by decide +kernel, by decide +kernel⟩, by decide +kernel⟩

/-- With no rows no pixel is covered, dark or not. -/
theorem witness_DrawTwiceRestores_none : ¬∃ k < 2048, covers wDraw 0 1 0 k ∧ wDraw.pixel k = false := by
  rintro ⟨k, _, ⟨row, hrow, _⟩, _⟩
  exact Nat.not_lt_zero row hrow

theorem witness_DrawBelowScreenClipped : (wDraw.setReg 1 32).index.toNat + (1 - 1) ≤ 4095 ∧
    32 ≤ ((wDraw.setReg 1 32).reg 1).toNat := by decide +kernel

theorem witness_KeySkips : ((State.reset.setReg 2 15).reg 2).toNat ≤ 15 ∧
    (pressing (State.reset.setReg 2 15) [15]).key ((State.reset.setReg 2 15).reg 2).toNat = true ∧
    (State.reset.setReg 2 15).key ((State.reset.setReg 2 15).reg 2).toNat = false := by decide

theorem witness_KeySkips_out : 15 < ((State.reset.setReg 2 16).reg 2).toNat := by decide

theorem witness_WaitKeyTakesLowest : lowestPressed (pressing State.reset [0, 15]) 0 ∧
    lowestPressed (pressing State.reset [15]) 15 := by
  unfold lowestPressed
  decide

theorem witness_WaitKeyWaits : (∀ k < 16, (at200 0xF30A).key k = false) ∧ (at200 0xF30A).fault = none ∧
    fetchDecode (at200 0xF30A) = .ok (.wkey 3) :=
  ⟨by decide, rfl, rfl⟩

theorem witness_DelayTimerAccess : (State.reset.setDt 255).fault = none := by decide

theorem witness_SoundTimerWrite : (State.reset.setReg 1 1).fault = none ∧ (State.reset.setReg 1 1).reg 1 = 1 := by
  decide

theorem witness_DelaySetThenRead : (State.reset.setReg 1 1).fault = none := by decide

theorem witness_LoadCopiesImage : (List.replicate 3584 (0xFF : Byte)).length ≤ 3584 ∧
    3583 < (List.replicate 3584 (0xFF : Byte)).length := by
  rw [List.length_replicate]; decide

theorem witness_LongImageRefused : 3584 < (List.replicate 3585 (0xFF : Byte)).length := by
  rw [List.length_replicate]; decide

theorem witness_DriverSuppliesRandomByte : (Session.ready (at200 0xC00F)).state = some (at200 0xC00F) ∧
    (at200 0xC00F).fault = none ∧ fetchDecode (at200 0xC00F) = .ok (.rnd 0 0x0F) :=
  ⟨rfl, rfl, rfl⟩

theorem witness_DriverSuppliesRandomByte_latched :
    (Session.running (State.reset.raise .stackOverflow)).state = some (State.reset.raise .stackOverflow) ∧
    (State.reset.raise .stackOverflow).fault = some .stackOverflow :=
  ⟨rfl, rfl⟩

theorem witness_DriverSuppliesRandomByte_other : ∀ x kk, fetchDecode (at200 0x6005) ≠ .ok (.rnd x kk) := by
  have h : fetchDecode (at200 0x6005) = .ok (.ldi 0 5) := rfl
  intro x kk e
  rw [h] at e
  cases e

theorem witness_ProtocolHasNoOtherTransition :
    ((∃ font, Session.off defaultFont = .off font) ∧ Transaction.step 0xA7 ≠ .initialise) ∧
    ((∃ s, Session.running State.reset = .running s) ∧ ∃ bytes, Transaction.load [0x60, 0x05] = .load bytes) :=
  ⟨⟨⟨_, rfl⟩, by decide⟩, ⟨_, rfl⟩, _, rfl⟩

end Sys2Proof.Tests
end

section

/-! PROOFS. Memory (20_memory.md): the byte order of a fetched opcode. -/

namespace Sys2Proof

/-- The byte order of R42 as arithmetic: the first byte weighs 256, and the second, being below 256, adds without a
carry. -/
theorem opcodeOf_toNat (hi lo : Byte) : (opcodeOf hi lo).toNat = hi.toNat * 256 + lo.toNat := by
  have hlo : lo.toNat < 2 ^ 8 := lo.isLt
  calc (opcodeOf hi lo).toNat
      = hi.toNat <<< 8 ||| lo.toNat := BitVec.toNat_append hi lo
    _ = hi.toNat <<< 8 + lo.toNat := (Nat.shiftLeft_add_eq_or_of_lt hlo hi.toNat).symm
    _ = hi.toNat * 256 + lo.toNat := by rw [Nat.shiftLeft_eq]

end Sys2Proof

namespace Sys2Proof.Machine

/-- Settles O10: a pc up to 4094 passes the fetch bound, and the opcode of any two bytes is their big-endian value. -/
theorem fetchIsBigEndian : Obligations.FetchIsBigEndian := by
  intro s hpc
  exact ⟨fetch_of_le s hpc, opcodeOf_toNat _ _⟩

end Sys2Proof.Machine
end

section

/-! PROOFS. Encoding (30_encoding.md): the opcode map and the decoder agree, by R64's two levels of dispatch. -/

namespace Sys2Proof

/-! ### A decoded instruction's word -/

section
variable {op : Opcode} {i : Instr}

theorem wordNNN_of_fields {t : BitVec 4} {nnn : Addr12} (ht : opTop op = t) (hn : opNNN op = nnn) :
    wordNNN t nnn = op := by
  rw [← ht, ← hn, wordNNN_fields]

theorem wordXKK_of_fields {t : BitVec 4} {kk : Byte} (ht : opTop op = t) (hk : opKK op = kk) :
    wordXKK t (opX op) kk = op := by
  rw [← ht, ← hk, wordXKK_fields]

theorem wordXYN_of_fields {t n : BitVec 4} (ht : opTop op = t) (hn : opN op = n) :
    wordXYN t (opX op) (opY op) n = op := by
  rw [← ht, ← hn, wordXYN_fields]

theorem encode_of_decodeTop0 (ht : opTop op = 0x0#4) (h : decodeTop0 op = some i) : encode i = op := by
  unfold decodeTop0 at h
  split at h <;> cases h <;> exact wordNNN_of_fields ht ‹_›

theorem encode_of_decodeTop5 (ht : opTop op = 0x5#4) (h : decodeTop5 op = some i) : encode i = op := by
  unfold decodeTop5 at h
  split at h <;> cases h
  exact wordXYN_of_fields ht ‹_›

theorem encode_of_decodeTop8 (ht : opTop op = 0x8#4) (h : decodeTop8 op = some i) : encode i = op := by
  unfold decodeTop8 at h
  split at h <;> cases h <;> exact wordXYN_of_fields ht ‹_›

theorem encode_of_decodeTop9 (ht : opTop op = 0x9#4) (h : decodeTop9 op = some i) : encode i = op := by
  unfold decodeTop9 at h
  split at h <;> cases h
  exact wordXYN_of_fields ht ‹_›

theorem encode_of_decodeTopE (ht : opTop op = 0xE#4) (h : decodeTopE op = some i) : encode i = op := by
  unfold decodeTopE at h
  split at h <;> cases h <;> exact wordXKK_of_fields ht ‹_›

theorem encode_of_decodeTopF (ht : opTop op = 0xF#4) (h : decodeTopF op = some i) : encode i = op := by
  unfold decodeTopF at h
  split at h <;> cases h <;> exact wordXKK_of_fields ht ‹_›

/-- The decoder loses no bit: the word of a decoded instruction is the word decoded. -/
theorem encode_of_decodeWord (h : decodeWord op = some i) : encode i = op := by
  unfold decodeWord at h
  split at h
  · exact encode_of_decodeTop0 ‹_› h
  · cases h; exact wordNNN_of_fields ‹_› rfl
  · cases h; exact wordNNN_of_fields ‹_› rfl
  · cases h; exact wordXKK_of_fields ‹_› rfl
  · cases h; exact wordXKK_of_fields ‹_› rfl
  · exact encode_of_decodeTop5 ‹_› h
  · cases h; exact wordXKK_of_fields ‹_› rfl
  · cases h; exact wordXKK_of_fields ‹_› rfl
  · exact encode_of_decodeTop8 ‹_› h
  · exact encode_of_decodeTop9 ‹_› h
  · cases h; exact wordNNN_of_fields ‹_› rfl
  · cases h; exact wordNNN_of_fields ‹_› rfl
  · cases h; exact wordXKK_of_fields ‹_› rfl
  · cases h; exact wordXYN_of_fields ‹_› (by simp)
  · exact encode_of_decodeTopE ‹_› h
  · exact encode_of_decodeTopF ‹_› h
  · cases h

theorem wellFormed_of_decodeWord (h : decodeWord op = some i) : i.wellFormed = true := by
  cases i with
  | drw x y n =>
    have htop : opTop op = 0xD#4 := by
      rw [← encode_of_decodeWord h]
      exact opTop_wordXYN _ _ _ _
    simp only [decodeWord, htop] at h
    cases h
    exact decide_eq_true (opN op).isLt
  | _ => rfl

end

/-! ### The masked bits decide the mnemonic -/

/-- The mnemonic of the instruction a word decodes to. -/
def decodedMnemonic (op : Opcode) : Option String := (decodeWord op).map mnemonic

theorem decodedMnemonic_eq_some {op : Opcode} {name : String} :
    decodedMnemonic op = some name ↔ ∃ i, decodeWord op = some i ∧ mnemonic i = name :=
  Option.map_eq_some_iff

/-- The bits that tell apart the instructions with the top nibble `t`, by R64's second level of dispatch: all bits for
0, the low nibble for 5, 8 and 9, the low byte for E and F, and nothing but the top nibble for the others. -/
def topMask (t : BitVec 4) : Opcode :=
  match t with
  | 0x0#4 => 0xFFFF#16
  | 0x5#4 | 0x8#4 | 0x9#4 => 0xF00F#16
  | 0xE#4 | 0xF#4 => 0xF0FF#16
  | _ => 0xF000#16

section
variable {op op' : Opcode}

theorem opTop_and : opTop (op &&& op') = opTop op &&& opTop op' := BitVec.extractLsb'_and

theorem opN_and : opN (op &&& op') = opN op &&& opN op' := BitVec.extractLsb'_and

theorem opKK_and : opKK (op &&& op') = opKK op &&& opKK op' := BitVec.extractLsb'_and

theorem opTop_topMask (t : BitVec 4) : opTop (topMask t) = BitVec.allOnes 4 := by
  revert t; decide

theorem opTop_and_topMask (t : BitVec 4) : opTop (op &&& topMask t) = opTop op := by
  rw [opTop_and, opTop_topMask, BitVec.and_allOnes]

theorem opN_and_F00F : opN (op &&& 0xF00F#16) = opN op := by
  rw [opN_and]; exact BitVec.and_allOnes

theorem opKK_and_F0FF : opKK (op &&& 0xF0FF#16) = opKK op := by
  rw [opKK_and]; exact BitVec.and_allOnes

theorem decodeTop5_mnemonic_congr (h : opN op = opN op') :
    (decodeTop5 op).map mnemonic = (decodeTop5 op').map mnemonic := by
  unfold decodeTop5
  rw [h]
  split <;> rfl

theorem decodeTop8_mnemonic_congr (h : opN op = opN op') :
    (decodeTop8 op).map mnemonic = (decodeTop8 op').map mnemonic := by
  unfold decodeTop8
  rw [h]
  split <;> rfl

theorem decodeTop9_mnemonic_congr (h : opN op = opN op') :
    (decodeTop9 op).map mnemonic = (decodeTop9 op').map mnemonic := by
  unfold decodeTop9
  rw [h]
  split <;> rfl

theorem decodeTopE_mnemonic_congr (h : opKK op = opKK op') :
    (decodeTopE op).map mnemonic = (decodeTopE op').map mnemonic := by
  unfold decodeTopE
  rw [h]
  split <;> rfl

theorem decodeTopF_mnemonic_congr (h : opKK op = opKK op') :
    (decodeTopF op).map mnemonic = (decodeTopF op').map mnemonic := by
  unfold decodeTopF
  rw [h]
  split <;> rfl

end

/-- The decoder finds the operation in the bits under the mask of the word's top nibble; the other bits are operands. -/
theorem decodedMnemonic_and_topMask (op : Opcode) :
    decodedMnemonic (op &&& topMask (opTop op)) = decodedMnemonic op := by
  unfold decodedMnemonic decodeWord
  rw [opTop_and_topMask]
  split
  case h_1 ht => rw [ht]; exact congrArg (fun w => (decodeTop0 w).map mnemonic) BitVec.and_allOnes
  case h_6 ht => rw [ht]; exact decodeTop5_mnemonic_congr opN_and_F00F
  case h_9 ht => rw [ht]; exact decodeTop8_mnemonic_congr opN_and_F00F
  case h_10 ht => rw [ht]; exact decodeTop9_mnemonic_congr opN_and_F00F
  case h_15 ht => rw [ht]; exact decodeTopE_mnemonic_congr opKK_and_F0FF
  case h_16 ht => rw [ht]; exact decodeTopF_mnemonic_congr opKK_and_F0FF
  all_goals rfl

/-! ### The rows of the opcode map -/

/-- Every row has the mask of its top nibble, and its match word decodes to its own mnemonic. -/
theorem opcodeRows_mask_and_match : ∀ row ∈ opcodeRows,
    row.2.2 = topMask (opTop row.2.1) ∧ decodedMnemonic row.2.1 = some row.1 := by
  decide

theorem opcodeRows_names_nodup : (opcodeRows.map Prod.fst).Nodup := by
  decide

/-- A word in a row decodes to the row's mnemonic. -/
theorem decodedMnemonic_of_inRow {op : Opcode} {row : String × Opcode × Opcode} (hrow : row ∈ opcodeRows)
    (h : inRow op row = true) : decodedMnemonic op = some row.1 := by
  obtain ⟨hmask, hname⟩ := opcodeRows_mask_and_match row hrow
  have hmatch : op &&& row.2.2 = row.2.1 := eq_of_beq h
  have htop : opTop row.2.1 = opTop op := by
    rw [← hmatch, hmask, opTop_and_topMask]
  calc decodedMnemonic op
      = decodedMnemonic (op &&& topMask (opTop op)) := (decodedMnemonic_and_topMask op).symm
    _ = decodedMnemonic row.2.1 := by rw [← htop, ← hmask, hmatch]
    _ = some row.1 := hname

end Sys2Proof

namespace Sys2Proof.Laws

/-- The encoder puts every instruction into the row of its mnemonic. -/
theorem encodeInRow (i : Instr) : EncodeInRow.Statement i := by
  cases i with
  | cls => exact EncodeInRow.cls
  | ret => exact EncodeInRow.ret
  | jp nnn => exact EncodeInRow.jp nnn
  | call nnn => exact EncodeInRow.call nnn
  | sei x kk => exact EncodeInRow.sei x kk
  | snei x kk => exact EncodeInRow.snei x kk
  | ser x y => exact EncodeInRow.ser x y
  | ldi x kk => exact EncodeInRow.ldi x kk
  | addi x kk => exact EncodeInRow.addi x kk
  | mov x y => exact EncodeInRow.mov x y
  | or x y => exact EncodeInRow.or x y
  | and x y => exact EncodeInRow.and x y
  | xor x y => exact EncodeInRow.xor x y
  | add x y => exact EncodeInRow.add x y
  | sub x y => exact EncodeInRow.sub x y
  | shl6 x y => exact EncodeInRow.shl6 x y
  | subf x y => exact EncodeInRow.subf x y
  | shle x y => exact EncodeInRow.shle x y
  | sner x y => exact EncodeInRow.sner x y
  | ldidx nnn => exact EncodeInRow.ldidx nnn
  | jpv0 nnn => exact EncodeInRow.jpv0 nnn
  | rnd x kk => exact EncodeInRow.rnd x kk
  | drw x y n => exact EncodeInRow.drw x y n
  | skp x => exact EncodeInRow.skp x
  | sknp x => exact EncodeInRow.sknp x
  | lddt x => exact EncodeInRow.lddt x
  | wkey x => exact EncodeInRow.wkey x
  | stdt x => exact EncodeInRow.stdt x
  | stst x => exact EncodeInRow.stst x
  | addidx x => exact EncodeInRow.addidx x
  | ldfont x => exact EncodeInRow.ldfont x
  | bcd x => exact EncodeInRow.bcd x
  | stm x => exact EncodeInRow.stm x
  | ldm x => exact EncodeInRow.ldm x

end Sys2Proof.Laws

namespace Sys2Proof

/-- A word that decodes lies in the row of its mnemonic: it is the encoder's word for the decoded instruction. -/
theorem exists_row_of_decodeWord {op : Opcode} {i : Instr} (h : decodeWord op = some i) :
    ∃ row ∈ opcodeRows, row.1 = mnemonic i ∧ inRow op row = true := by
  have hrow := Laws.encodeInRow i (wellFormed_of_decodeWord h)
  rwa [encode_of_decodeWord h] at hrow

theorem inRow_iff_decodedMnemonic {op : Opcode} {row : String × Opcode × Opcode} (hrow : row ∈ opcodeRows) :
    inRow op row = true ↔ decodedMnemonic op = some row.1 := by
  refine ⟨decodedMnemonic_of_inRow hrow, fun h => ?_⟩
  obtain ⟨i, hi, hname⟩ := decodedMnemonic_eq_some.mp h
  obtain ⟨row', hrow', hname', hin⟩ := exists_row_of_decodeWord hi
  have hsame : row' = row := List.inj_on_of_nodup_map opcodeRows_names_nodup hrow' hrow (hname'.trans hname)
  exact hsame ▸ hin

/-- A word in two rows would decode to two mnemonics, and no two rows share a mnemonic. -/
theorem opcodeRows_pairwise_disjoint :
    opcodeRows.Pairwise fun r r' => ∀ op : Opcode, ¬(inRow op r = true ∧ inRow op r' = true) := by
  have hnames : opcodeRows.Pairwise fun r r' => r.1 ≠ r'.1 := List.pairwise_map.mp opcodeRows_names_nodup
  refine hnames.imp_of_mem fun {r r'} hr hr' hne op ⟨hin, hin'⟩ => hne ?_
  have hsame : some r.1 = some r'.1 :=
    (decodedMnemonic_of_inRow hr hin).symm.trans (decodedMnemonic_of_inRow hr' hin')
  exact Option.some.inj hsame

end Sys2Proof

namespace Sys2Proof.Machine

/-- Settles O3: the bits under a row's mask are those by which the decoder finds the operation, so a word in a row
decodes to the row's mnemonic; the encoder gives a decoded word its row, and distinct mnemonics keep the rows apart. -/
theorem legalExactlyInOneRow : Obligations.LegalExactlyInOneRow := by
  refine ⟨fun op row hrow => ?_, opcodeRows_pairwise_disjoint, fun op i h => ?_⟩
  · exact (inRow_iff_decodedMnemonic hrow).trans decodedMnemonic_eq_some
  · obtain ⟨row, hrow, hname, -⟩ := exists_row_of_decodeWord h
    exact ⟨row, hrow, hname⟩

end Sys2Proof.Machine
end

section

/-! PROOFS. Control flow (41_control_flow.md): jumps and skips move pc and write nothing else. -/

namespace Sys2Proof

/-! ### The low nibble of 5xyN and 9xyN (R106, R107) -/

section
variable {op : Opcode}

theorem decodeWord_of_opTop_5 (ht : opTop op = 0x5#4) : decodeWord op = decodeTop5 op := by
  simp only [decodeWord, ht]

theorem decodeWord_of_opTop_9 (ht : opTop op = 0x9#4) : decodeWord op = decodeTop9 op := by
  simp only [decodeWord, ht]

theorem decodeTop5_eq_none (hn : opN op ≠ 0) : decodeTop5 op = none := by
  unfold decodeTop5
  split
  · exact absurd ‹opN op = 0x0#4› hn
  · rfl

theorem decodeTop9_eq_none (hn : opN op ≠ 0) : decodeTop9 op = none := by
  unfold decodeTop9
  split
  · exact absurd ‹opN op = 0x0#4› hn
  · rfl

end

section
variable {n : BitVec 4} (x y : RegNum)

theorem decodeWord_5xyN_eq_none (hn : n ≠ 0) : decodeWord (wordXYN 0x5#4 x y n) = none := by
  rw [decodeWord_of_opTop_5 (opTop_wordXYN ..), decodeTop5_eq_none]
  rwa [opN_wordXYN]

theorem decodeWord_9xyN_eq_none (hn : n ≠ 0) : decodeWord (wordXYN 0x9#4 x y n) = none := by
  rw [decodeWord_of_opTop_9 (opTop_wordXYN ..), decodeTop9_eq_none]
  rwa [opN_wordXYN]

end

end Sys2Proof

namespace Sys2Proof.Machine

/-! ### Branch targets -/

theorem zextAddr_toNat (nnn : Addr12) : (zextAddr nnn).toNat = nnn.toNat :=
  BitVec.toNat_setWidth_of_le (by decide)

theorem zextByte_toNat (b : Byte) : (zextByte b).toNat = b.toNat :=
  BitVec.toNat_setWidth_of_le (by decide)

/-- The largest sum of R108, 0xFFF + 0xFF, is far below 65536. -/
theorem addr_add_byte_le (nnn : Addr12) (b : Byte) : nnn.toNat + b.toNat ≤ 0x10FE := by
  have hnnn : nnn.toNat < 4096 := nnn.isLt
  have hb : b.toNat < 256 := b.isLt
  omega

/-- The target of `JPV0` is the integer sum: R108's `mod 65536` never applies. -/
theorem zextAddr_add_zextByte_toNat (nnn : Addr12) (b : Byte) :
    (zextAddr nnn + zextByte b).toNat = nnn.toNat + b.toNat := by
  have hle := addr_add_byte_le nnn b
  rw [BitVec.toNat_add, zextAddr_toNat, zextByte_toNat, Nat.mod_eq_of_lt (by omega)]

/-! ### The moves of pc -/

section
variable (s : State)

theorem fetch_of_gt (h : 4094 < s.pc.toNat) : fetch s = .error (.fetchOutOfBounds s.pc) := if_pos h

theorem frame_setPc (a : Word) : Frame [.pc] s (s.setPc a) := by
  intro it hit
  cases it with
  | pc => exact absurd (List.mem_singleton_self Item.pc) hit
  | _ => rfl

theorem frame_skipIf (c : Bool) : Frame [.pc] s (s.skipIf c) := frame_setPc s _

theorem State.skipIf_true_pc : (s.skipIf true).pc = s.pc + 4 := rfl

theorem State.skipIf_false_pc : (s.skipIf false).pc = s.pc + 2 := rfl

end

/-- What every skip shares (R109): whatever decides its condition `c`, pc moves by 4 or by 2 and nothing else changes.
`p` and `q` are what a statement says of the operands in the two cases. -/
theorem exec_skip {i : Instr} {s : State} {c : Bool} {p q : Prop} (hexec : exec i s = .next (s.skipIf c))
    (hskip : p → c = true) (hnext : q → c = false) :
    ∃ t, exec i s = .next t ∧ Frame [.pc] s t ∧ (p → t.pc = s.pc + 4) ∧ (q → t.pc = s.pc + 2) := by
  refine ⟨_, hexec, frame_skipIf s c, fun hp => ?_, fun hq => ?_⟩
  · rw [hskip hp, State.skipIf_true_pc]
  · rw [hnext hq, State.skipIf_false_pc]

section
variable {i : Instr} {s : State} {a b : Byte}

theorem exec_skip_beq (hexec : exec i s = .next (s.skipIf (a == b))) :
    ∃ t, exec i s = .next t ∧ Frame [.pc] s t ∧ (a = b → t.pc = s.pc + 4) ∧ (a ≠ b → t.pc = s.pc + 2) :=
  exec_skip hexec beq_iff_eq.mpr beq_eq_false_iff_ne.mpr

theorem exec_skip_bne (hexec : exec i s = .next (s.skipIf (a != b))) :
    ∃ t, exec i s = .next t ∧ Frame [.pc] s t ∧ (a ≠ b → t.pc = s.pc + 4) ∧ (a = b → t.pc = s.pc + 2) :=
  exec_skip hexec bne_iff_ne.mpr bne_eq_false_iff_eq.mpr

end

/-! ### The obligations -/

/-- Settles O25: the jump is one move of pc, to the 12-bit address widened. -/
theorem jumpAbsolute : Obligations.JumpAbsolute := by
  intro nnn s
  have hexec : exec (.jp nnn) s = .next (s.setPc (zextAddr nnn)) := rfl
  exact ⟨_, hexec, zextAddr_toNat nnn, frame_setPc s _, fun h => ⟨_, fetch_of_gt _ h⟩⟩

/-- The last clause of `jumpAbsolute` is met at nnn = 0xFFF (R102's corner case). -/
theorem jumpAbsolute_fetch_fault_witness :
    ∃ t, exec (.jp 0xFFF) State.reset = .next t ∧ 4094 < t.pc.toNat :=
  ⟨_, rfl, by decide⟩

/-- Settles O26: the jump is one move of pc, to a 16-bit sum that cannot wrap. -/
theorem jumpPlusV0 : Obligations.JumpPlusV0 := by
  intro nnn s
  have hexec : exec (.jpv0 nnn) s = .next (s.setPc (zextAddr nnn + zextByte (s.reg 0))) := rfl
  have hsum := zextAddr_add_zextByte_toNat nnn (s.reg 0)
  exact ⟨_, hexec, hsum, hsum.trans_le (addr_add_byte_le nnn (s.reg 0)), frame_setPc s _,
    fun h => ⟨_, fetch_of_gt _ h⟩⟩

/-- Settles O27: both are skips, on the comparison with the immediate and on its negation. -/
theorem skipsOnImmediate : Obligations.SkipsOnImmediate := by
  intro x kk s
  have hsei : exec (.sei x kk) s = .next (s.skipIf (s.reg x == kk)) := rfl
  have hsnei : exec (.snei x kk) s = .next (s.skipIf (s.reg x != kk)) := rfl
  exact ⟨exec_skip_beq hsei, exec_skip_bne hsnei⟩

/-- Settles O28: both are skips, on the comparison of two registers and on its negation; the decoder takes only the low
nibble 0 under either top nibble. -/
theorem skipsOnRegisters : Obligations.SkipsOnRegisters := by
  refine ⟨fun x y s => ?_, fun x y n hn => ⟨decodeWord_5xyN_eq_none x y hn, decodeWord_9xyN_eq_none x y hn⟩⟩
  have hser : exec (.ser x y) s = .next (s.skipIf (s.reg x == s.reg y)) := rfl
  have hsner : exec (.sner x y) s = .next (s.skipIf (s.reg x != s.reg y)) := rfl
  exact ⟨exec_skip_beq hser, exec_skip_bne hsner⟩

end Sys2Proof.Machine
end

section

/-! PROOFS. Arithmetic and logic (42_alu.md): an instruction without a flag writes one register and advances pc. -/

namespace Sys2Proof.Machine

/-! ### Frames of the updates -/

theorem Item.same.trans {s t u : State} {it : Item} (hst : it.same s t) (htu : it.same t u) : it.same s u := by
  cases it <;> exact Eq.trans htu hst

/-- Two updates in turn write at most what either of them writes. -/
theorem Frame.trans {l m : List Item} {s t u : State} (hst : Frame l s t) (htu : Frame m t u) : Frame (l ++ m) s u := by
  intro it hit
  obtain ⟨hl, hm⟩ : it ∉ l ∧ it ∉ m := by simpa using hit
  exact (hst it hl).trans (htu it hm)

theorem frame_setReg (s : State) (x : RegNum) (b : Byte) : Frame [.reg x] s (s.setReg x b) := by
  intro it hit
  cases it with
  | reg y =>
    have hyx : y ≠ x := by simpa using hit
    exact (State.reg_setReg s x y b).trans (if_neg hyx)
  | _ => rfl

theorem frame_advance (s : State) : Frame [.pc] s s.advance := frame_setPc s _

/-! ### One register written, no flag -/

section
variable {i : Instr} {s : State} {x : RegNum} {b : Byte}

/-- What the instructions without a flag share: the frame names no other register, so VF keeps its value unless `x` is
15. -/
theorem exec_setReg_advance (hexec : exec i s = .next (s.setReg x b).advance) :
    ∃ t, exec i s = .next t ∧ t.reg x = b ∧ t.pc = s.pc + 2 ∧ Frame [.reg x, .pc] s t :=
  ⟨_, hexec, State.reg_setReg_self s x b, rfl, (frame_setReg s x b).trans (frame_advance _)⟩

/-- The same for a result that is known bit by bit. -/
theorem exec_setReg_advance_bits {bit : Nat → Bool} (hexec : exec i s = .next (s.setReg x b).advance)
    (hbit : ∀ j, b.getLsbD j = bit j) :
    ∃ t, exec i s = .next t ∧ t.pc = s.pc + 2 ∧ Frame [.reg x, .pc] s t ∧ ∀ j < 8, (t.reg x).getLsbD j = bit j := by
  obtain ⟨t, ht, hreg, hpc, hframe⟩ := exec_setReg_advance hexec
  exact ⟨t, ht, hpc, hframe, fun j _ => hreg ▸ hbit j⟩

end

/-- The sum of R122 and R127 as arithmetic. -/
theorem addResult_toNat (a b : Byte) : (addResult a b).toNat = (a.toNat + b.toNat) % 256 := BitVec.toNat_add a b

/-! ### The obligations -/

/-- Settles O32: both write one register, the immediate or the sum modulo 256. -/
theorem loadAndAddImmediate : Obligations.LoadAndAddImmediate := by
  intro x kk s
  have hldi : exec (.ldi x kk) s = .next (s.setReg x kk).advance := rfl
  have haddi : exec (.addi x kk) s = .next (s.setReg x (addResult (s.reg x) kk)).advance := rfl
  obtain ⟨t, ht, hreg, hrest⟩ := exec_setReg_advance haddi
  exact ⟨exec_setReg_advance hldi, t, ht, hreg ▸ addResult_toNat (s.reg x) kk, hrest⟩

/-- Settles O33: all four write one register, the copy or the result of a bitwise operation. -/
theorem moveAndLogic : Obligations.MoveAndLogic := by
  intro x y s
  have hmov : exec (.mov x y) s = .next (s.setReg x (s.reg y)).advance := rfl
  have hor : exec (.or x y) s = .next (s.setReg x (s.reg x ||| s.reg y)).advance := rfl
  have hand : exec (.and x y) s = .next (s.setReg x (s.reg x &&& s.reg y)).advance := rfl
  have hxor : exec (.xor x y) s = .next (s.setReg x (s.reg x ^^^ s.reg y)).advance := rfl
  exact ⟨exec_setReg_advance hmov,
    exec_setReg_advance_bits hor fun _ => BitVec.getLsbD_or,
    exec_setReg_advance_bits hand fun _ => BitVec.getLsbD_and,
    exec_setReg_advance_bits hxor fun _ => BitVec.getLsbD_xor⟩

end Sys2Proof.Machine
end


section

/-! PROOFS. The index register (43_index_memory.md): a load writes I, unmasked, and advances pc. -/

namespace Sys2Proof.Machine

/-! ### I written, nothing else -/

theorem frame_setIndex (s : State) (a : Word) : Frame [.index] s (s.setIndex a) := by
  intro it hit
  cases it with
  | index => exact absurd (List.mem_singleton_self Item.index) hit
  | _ => rfl

/-- What the two loads of I share. -/
theorem exec_setIndex_advance {i : Instr} {s : State} {a : Word} (hexec : exec i s = .next (s.setIndex a).advance) :
    ∃ t, exec i s = .next t ∧ t.index = a ∧ t.pc = s.pc + 2 ∧ Frame [.index, .pc] s t :=
  ⟨_, hexec, rfl, rfl, (frame_setIndex s a).trans (frame_advance _)⟩

/-- The product of R153 is the integer product for every byte: the largest, 255 * 5, is far below 65536. -/
theorem zextByte_mul_five_toNat (b : Byte) : (zextByte b * 5).toNat = b.toNat * 5 := by
  have hb : b.toNat < 256 := b.isLt
  have hfive : (5 : Word).toNat = 5 := rfl
  rw [BitVec.toNat_mul, zextByte_toNat, hfive, Nat.mod_eq_of_lt (by omega)]

/-! ### The obligation -/

/-- Settles O38: both write I, with the 12-bit address widened or with the product of the whole byte, which cannot
wrap. -/
theorem indexLoads : Obligations.IndexLoads := by
  refine ⟨fun nnn s => ?_, fun x s => ?_⟩
  · have hldidx : exec (.ldidx nnn) s = .next (s.setIndex (zextAddr nnn)).advance := rfl
    obtain ⟨t, ht, hindex, hrest⟩ := exec_setIndex_advance hldidx
    exact ⟨t, ht, hindex ▸ zextAddr_toNat nnn, hrest⟩
  · have hldfont : exec (.ldfont x) s = .next (s.setIndex (zextByte (s.reg x) * 5)).advance := rfl
    obtain ⟨t, ht, hindex, hrest⟩ := exec_setIndex_advance hldfont
    exact ⟨t, ht, hindex ▸ zextByte_mul_five_toNat (s.reg x), hrest⟩

end Sys2Proof.Machine
end

section

/-! PROOFS. Display (44_display.md): `CLS` writes the framebuffer, no flag, and advances pc. -/

namespace Sys2Proof

/-! ### The words under top nibble 0 (R170) -/

section
variable {op : Opcode}

theorem decodeWord_of_opTop_0 (ht : opTop op = 0x0#4) : decodeWord op = decodeTop0 op := by
  simp only [decodeWord, ht]

theorem decodeTop0_eq_none (hcls : opNNN op ≠ 0x0E0) (hret : opNNN op ≠ 0x0EE) : decodeTop0 op = none := by
  unfold decodeTop0
  split
  · exact absurd ‹opNNN op = 0x0E0#12› hcls
  · exact absurd ‹opNNN op = 0x0EE#12› hret
  · rfl

end

theorem decodeWord_0nnn_eq_none {nnn : Addr12} (hcls : nnn ≠ 0x0E0) (hret : nnn ≠ 0x0EE) :
    decodeWord (wordNNN 0x0#4 nnn) = none := by
  rw [decodeWord_of_opTop_0 (opTop_wordNNN ..), decodeTop0_eq_none] <;> rwa [opNNN_wordNNN]

/-- The decoder loses no bit, so `CLS` has one word, the encoder's. -/
theorem decodeWord_eq_cls_iff (op : Opcode) : decodeWord op = some .cls ↔ op = 0x00E0 := by
  constructor
  · intro h
    have hword : encode .cls = op := encode_of_decodeWord h
    exact hword.symm
  · rintro rfl
    rfl

end Sys2Proof

namespace Sys2Proof.Machine

/-! ### The framebuffer written, nothing else -/

theorem frame_setFb (s : State) (f : Framebuffer) : Frame [.fb] s (s.setFb f) := by
  intro it hit
  cases it with
  | fb => exact absurd (List.mem_singleton_self Item.fb) hit
  | _ => rfl

/-! ### The obligation -/

/-- Settles O46: `CLS` writes the zero framebuffer and advances pc; its frame names no register, so VF keeps its value.
Its one word is the encoder's, and top nibble 0 has no third instruction. -/
theorem clearScreen : Obligations.ClearScreen := by
  refine ⟨fun s => ?_, decodeWord_eq_cls_iff, fun nnn hcls hret => decodeWord_0nnn_eq_none hcls hret⟩
  have hexec : exec .cls s = .next (s.setFb 0).advance := rfl
  have hpixel : ∀ k < 2048, (s.setFb 0).advance.pixel k = false := fun _ _ => BitVec.getLsbD_zero
  exact ⟨_, hexec, hpixel, rfl, (frame_setFb s 0).trans (frame_advance _)⟩

end Sys2Proof.Machine
end

section

/-! PROOFS. The delay timer (45_keypad_timers.md): `LDDT` reads it and `STDT` writes it before the decay of their own
step. -/

namespace Sys2Proof.Machine

/-! ### Phase 4 after an instruction that raised no fault -/

section
variable (s : State)

theorem State.reg_retire (x : RegNum) : s.retire.reg x = s.reg x := by
  unfold State.retire
  split <;> rfl

theorem State.retire_dt_toNat (h : s.fault = none) : s.retire.dt.toNat = s.dt.toNat - 1 := by
  rw [State.retire_of_none s h]
  exact decayTimer_toNat s.dt

/-! ### DT written, nothing else -/

theorem frame_setDt (b : Byte) : Frame [.dt] s (s.setDt b) := by
  intro it hit
  cases it with
  | dt => exact absurd (List.mem_singleton_self Item.dt) hit
  | _ => rfl

end

/-! ### The obligation -/

/-- Settles O53: neither instruction touches the latch, so phase 4 decays the DT that each of them leaves; the decay
writes no register, so `LDDT`'s result stays. -/
theorem delayTimerAccess : Obligations.DelayTimerAccess := by
  intro x s hs
  constructor
  · have hlddt : exec (.lddt x) s = .next (s.setReg x s.dt).advance := rfl
    obtain ⟨t, ht, hreg, hpc, hframe⟩ := exec_setReg_advance hlddt
    have hdt : t.dt = s.dt := hframe .dt (by simp)
    have hlatch : t.fault = s.fault := hframe .latch (by simp)
    exact ⟨t, ht, hreg, hpc, hframe, (t.reg_retire x).trans hreg, hdt ▸ t.retire_dt_toNat (hlatch.trans hs)⟩
  · have hstdt : exec (.stdt x) s = .next (s.setDt (s.reg x)).advance := rfl
    have hfault : (s.setDt (s.reg x)).advance.fault = none := hs
    exact ⟨_, hstdt, rfl, rfl, (frame_setDt s (s.reg x)).trans (frame_advance _), State.retire_dt_toNat _ hfault⟩

end Sys2Proof.Machine
end

section

/-! PROOFS. The host interface (46_host_interface.md): `initialise` puts the reset state into any session, and `load` is
one block store. -/

namespace Sys2Proof.Machine

/-! ### What the reset state reads as (70_reset_and_hazards.md R260), by item -/

section
variable (font : Font)

theorem State.readByte_initial_of_lt {a : Nat} (h : a < 80) : (State.initial font).readByte a = font[a] := dif_pos h

theorem State.readByte_initial_of_le {a : Nat} (h : 80 ≤ a) : (State.initial font).readByte a = 0 := dif_neg h.not_gt

theorem State.reg_initial (x : RegNum) : (State.initial font).reg x = 0 := Vector.getElem_replicate x.isLt

theorem State.stackEntry_initial {k : Nat} (h : k < 16) : (State.initial font).stackEntry k = 0 :=
  congrArg (Option.getD · 0) (Vector.getElem?_replicate_of_lt h)

theorem State.pixel_initial (k : Nat) : (State.initial font).pixel k = false := BitVec.getLsbD_zero

theorem State.key_initial {k : Nat} (h : k < 16) : (State.initial font).key k = false :=
  congrArg (Option.getD · false) (Vector.getElem?_replicate_of_lt h)

end

/-- From every session `initialise` leads to the reset state over the session's FONT; only the count of draws, which is
no item of R260, depends on more. -/
theorem Session.initialise_eq_ready_initial (c : Session) :
    ∃ draws, c.initialise = .ready { State.initial c.font with randDraws := draws } := by
  cases c with
  | off font => exact ⟨0, rfl⟩
  | ready s => exact ⟨s.randDraws, rfl⟩
  | running s => exact ⟨s.randDraws, rfl⟩

/-! ### A block store: the bytes stored, nothing else -/

theorem mem_byteItems {a n a' : Nat} : Item.byte a' ∈ byteItems a n ↔ a ≤ a' ∧ a' - a < n := by
  constructor
  · intro h
    obtain ⟨k, hk, hbyte⟩ := List.mem_map.mp h
    obtain rfl : a + k = a' := Item.byte.inj hbyte
    have hkn : k < n := List.mem_range.mp hk
    omega
  · rintro ⟨hle, hlt⟩
    exact List.mem_map.mpr ⟨a' - a, List.mem_range.mpr hlt, congrArg Item.byte (Nat.add_sub_cancel' hle)⟩

section
variable (s : State) (a : Nat) (bs : List Byte)

theorem State.readByte_storeBytes_add {k : Nat} (h : k < bs.length) : (s.storeBytes a bs).readByte (a + k) = bs[k] := by
  simp [State.readByte_storeBytes, h]

theorem frame_storeBytes : Frame (byteItems a bs.length) s (s.storeBytes a bs) := by
  intro it hit
  cases it with
  | byte a' => exact (s.readByte_storeBytes bs a a').trans (dif_neg (mt mem_byteItems.mpr hit))
  | _ => rw [State.storeBytes_eq]; rfl

end

/-- An image that fits is stored as one block, and the driver is told so. -/
theorem Session.transact_load_of_le (s : State) {bytes : List Byte} (h : bytes.length ≤ 3584) :
    (Session.ready s).transact (.load bytes) = some (.ready (s.storeBytes 0x200 bytes), .done) := by
  have hload : s.load bytes = .ok (s.storeBytes 0x200 bytes) := if_pos h
  simp only [Session.transact, Session.load, hload]

/-! ### The obligations -/

/-- Settles O7: the state after `initialise` differs from the reset state at most in the count of draws, which none of
the items reads. -/
theorem initializeFromAnyState : Obligations.InitializeFromAnyState := by
  intro c
  obtain ⟨draws, hc⟩ := c.initialise_eq_ready_initial
  have hdone : c.transact .initialise = some (.ready { State.initial c.font with randDraws := draws }, .done) :=
    congrArg (fun c' => some (c', Response.done)) hc
  exact ⟨_, hdone,
    fun _ h => State.readByte_initial_of_lt c.font h, fun _ h _ => State.readByte_initial_of_le c.font h,
    State.reg_initial c.font, fun _ h => State.stackEntry_initial c.font h, rfl, rfl, rfl,
    fun k _ => State.pixel_initial c.font k, fun _ h => State.key_initial c.font h, rfl, rfl, rfl⟩

/-- Settles O56: `load` is one block store at 0x200, which stores the image and changes no other item. -/
theorem loadCopiesImage : Obligations.LoadCopiesImage := by
  intro s bytes hlen
  exact ⟨_, Session.transact_load_of_le s hlen, fun _ hk => s.readByte_storeBytes_add 0x200 bytes hk,
    frame_storeBytes s 0x200 bytes⟩

end Sys2Proof.Machine
end

section

/-! PROOFS. Reset (70_reset_and_hazards.md): the items of R260, as the lemmas about `State.initial` above give them. -/

namespace Sys2Proof.Machine

theorem State.soundActive_initial (font : Font) : (State.initial font).soundActive = false := bne_self_eq_false 0

/-- Settles O6: reset is the initial state of the default FONT, and each item of an initial state reads as R260 says. -/
theorem resetValues : Obligations.ResetValues := by
  refine ⟨⟨defaultFont, rfl⟩, fun font => ?_⟩
  have hfont : ∀ a : Nat, ∀ h : a < 80, (State.initial font).readByte a = font[a] :=
    fun _ h => State.readByte_initial_of_lt font h
  have hzero : ∀ a : Nat, 0x050 ≤ a → a ≤ 0xFFF → (State.initial font).readByte a = 0x00 :=
    fun _ h _ => State.readByte_initial_of_le font h
  exact ⟨hfont, hzero, State.reg_initial font, fun _ h => State.stackEntry_initial font h, rfl, rfl, rfl,
    fun k _ => State.pixel_initial font k, fun _ h => State.key_initial font h, rfl, rfl, rfl,
    State.soundActive_initial font⟩

end Sys2Proof.Machine
end

section

/-! PROOFS. Encoding (30_encoding.md): the round trip of words and instructions, and the words without one. -/

namespace Sys2Proof

/-! ### From an instruction to its word and back -/

/-- Each format keeps its fields apart, so the decoder finds in an instruction's word the operation and the operands
that the encoder put there; the row count of `drw` fits its nibble by well-formedness. -/
theorem decodeWord_encode {i : Instr} (h : i.wellFormed = true) : decodeWord (encode i) = some i := by
  cases i
  case cls => rfl
  case ret => rfl
  case jp | call | ldidx | jpv0 =>
    simp only [encode, decodeWord, opTop_wordNNN, opNNN_wordNNN]
  case sei | snei | ldi | addi | rnd =>
    simp only [encode, decodeWord, opTop_wordXKK, opX_wordXKK, opKK_wordXKK]
  case ser | sner =>
    simp only [encode, decodeWord, decodeTop5, decodeTop9, opTop_wordXYN, opX_wordXYN, opY_wordXYN, opN_wordXYN]
  case mov | or | and | xor | add | sub | shl6 | subf | shle =>
    simp only [encode, decodeWord, decodeTop8, opTop_wordXYN, opX_wordXYN, opY_wordXYN, opN_wordXYN]
  case drw x y n =>
    have hn : (BitVec.ofNat 4 n).toNat = n := (BitVec.toNat_ofNat n 4).trans (Nat.mod_eq_of_lt (of_decide_eq_true h))
    simp only [encode, decodeWord, opTop_wordXYN, opX_wordXYN, opY_wordXYN, opN_wordXYN, hn]
  case skp | sknp =>
    simp only [encode, decodeWord, decodeTopE, opTop_wordXKK, opX_wordXKK, opKK_wordXKK]
  case lddt | wkey | stdt | stst | addidx | ldfont | bcd | stm | ldm =>
    simp only [encode, decodeWord, decodeTopF, opTop_wordXKK, opX_wordXKK, opKK_wordXKK]

theorem decode_opcodeBytes {op : Opcode} {i : Instr} (h : decodeWord op = some i) :
    decode (opcodeBytes op) = .ok (i, []) := by
  simp only [opcodeBytes, decode, opcodeOf_opcodeBytes, h]

theorem decode_encodeBytes {i : Instr} (h : i.wellFormed = true) : decode (encodeBytes i) = .ok (i, []) :=
  decode_opcodeBytes (decodeWord_encode h)

/-! ### The illegal set (R68), by top nibble -/

section
variable {op : Opcode}

theorem decodeWord_eq_ret_iff (op : Opcode) : decodeWord op = some .ret ↔ op = 0x00EE := by
  constructor
  · intro h
    have hword : encode .ret = op := encode_of_decodeWord h
    exact hword.symm
  · rintro rfl
    rfl

/-- Under top nibble 0 a word decodes to `CLS`, to `RET` or to nothing. -/
theorem decodeTop0_eq_none_iff (ht : opTop op = 0x0#4) : decodeTop0 op = none ↔ op ≠ 0x00E0 ∧ op ≠ 0x00EE := by
  rw [Ne, Ne, ← decodeWord_eq_cls_iff, ← decodeWord_eq_ret_iff, decodeWord_of_opTop_0 ht]
  unfold decodeTop0
  split <;> simp

theorem decodeTop5_eq_none_iff : decodeTop5 op = none ↔ opN op ≠ 0 := by
  unfold decodeTop5
  split <;> simp_all

theorem decodeTop9_eq_none_iff : decodeTop9 op = none ↔ opN op ≠ 0 := by
  unfold decodeTop9
  split <;> simp_all

theorem decodeTop8_eq_none_iff : decodeTop8 op = none ↔
    opN op = 0x8 ∨ opN op = 0x9 ∨ opN op = 0xA ∨ opN op = 0xB ∨ opN op = 0xC ∨ opN op = 0xD ∨ opN op = 0xF := by
  unfold decodeTop8
  generalize opN op = n
  split
  case h_10 => simp only [true_iff]; revert n; decide
  all_goals simp

theorem decodeTopE_eq_none_iff : decodeTopE op = none ↔ opKK op ≠ 0x9E ∧ opKK op ≠ 0xA1 := by
  unfold decodeTopE
  split <;> simp_all

theorem decodeTopF_eq_none_iff : decodeTopF op = none ↔
    opKK op ≠ 0x07 ∧ opKK op ≠ 0x0A ∧ opKK op ≠ 0x15 ∧ opKK op ≠ 0x18 ∧ opKK op ≠ 0x1E ∧ opKK op ≠ 0x29 ∧
      opKK op ≠ 0x33 ∧ opKK op ≠ 0x55 ∧ opKK op ≠ 0x65 := by
  unfold decodeTopF
  split <;> simp_all

end

end Sys2Proof

namespace Sys2Proof.Machine

/-- A word has no instruction exactly when it lies in the illegal set: under each top nibble the two levels of R64 leave
out what R68 lists. -/
theorem decodeWord_eq_none_iff (op : Opcode) : decodeWord op = none ↔ illegalSet op = true := by
  unfold decodeWord illegalSet
  split
  case h_1 ht => simp [ht, decodeTop0_eq_none_iff ht]
  case h_6 ht => simp [ht, decodeTop5_eq_none_iff]
  case h_9 ht => simp [ht, decodeTop8_eq_none_iff, or_assoc]
  case h_10 ht => simp [ht, decodeTop9_eq_none_iff]
  case h_15 ht => simp [ht, decodeTopE_eq_none_iff]
  case h_16 ht => simp [ht, decodeTopF_eq_none_iff, and_assoc]
  case h_17 =>
    exfalso
    generalize opTop op = t at *
    revert t
    decide
  all_goals simp [*]

/-! ### The obligations -/

/-- Settles O1: the decoder reads the encoder's fields back, from the word and from its two bytes. -/
theorem decodeOfEncode : Obligations.DecodeOfEncode :=
  fun _ h => ⟨decodeWord_encode h, decode_encodeBytes h⟩

/-- Settles O2: the decoder loses no bit, and every row count it reads fits a nibble. -/
theorem encodeOfDecode : Obligations.EncodeOfDecode :=
  fun _ _ h => ⟨encode_of_decodeWord h, wellFormed_of_decodeWord h⟩

/-- Settles O4: under each top nibble the decoder refuses exactly the words that the list names. -/
theorem illegalSetExact : Obligations.IllegalSetExact := decodeWord_eq_none_iff

/-- Settles O5: each word is the encoder's word of the instruction named, so `decodeWord_encode` gives it back. -/
theorem specWordsDecode : Obligations.SpecWordsDecode := by
  have hword {op : Opcode} (i : Instr) (hi : i.wellFormed = true) (hop : encode i = op) : decodeWord op = some i :=
    hop ▸ decodeWord_encode hi
  exact ⟨hword .ret rfl rfl, hword (.call 0x20A) rfl rfl, hword (.ldi 0x0 0x05) rfl rfl, hword (.shl6 0x3 0xA) rfl rfl,
    hword (.ldidx 0x300) rfl rfl, hword (.ldm 0x2) rfl rfl, hword (.drw 0x0 0x1 3) rfl rfl, hword (.sknp 0x1) rfl rfl,
    hword (.wkey 0x0) rfl rfl⟩

end Sys2Proof.Machine
end

section

/-! PROOFS. Frames: what each update and each shared operation leaves unchanged. -/

namespace Sys2Proof.Machine

section
variable (s : State)

theorem Frame.refl (l : List Item) : Frame l s s := by
  intro it _
  cases it <;> rfl

/-- A frame that names more items says less. -/
theorem Frame.mono {l m : List Item} {s t : State} (h : Frame l s t) (hlm : l ⊆ m) : Frame m s t :=
  fun it hit => h it fun hl => hit (hlm hl)

theorem frame_setSp (p : Byte) : Frame [.sp] s (s.setSp p) := by
  intro it hit
  cases it with
  | sp => exact absurd (List.mem_singleton_self Item.sp) hit
  | _ => rfl

theorem frame_setSt (b : Byte) : Frame [.st] s (s.setSt b) := by
  intro it hit
  cases it with
  | st => exact absurd (List.mem_singleton_self Item.st) hit
  | _ => rfl

theorem frame_raise (f : Fault) : Frame [.latch] s (s.raise f) := by
  intro it hit
  cases it with
  | latch => exact absurd (List.mem_singleton_self Item.latch) hit
  | _ => rfl

theorem frame_countDraw : Frame [.draws] s s.countDraw := by
  intro it hit
  cases it with
  | draws => exact absurd (List.mem_singleton_self Item.draws) hit
  | _ => rfl

theorem State.stackEntry_setStackEntry_of_ne {k j : Nat} (w : Word) (h : j ≠ k) :
    (s.setStackEntry k w).stackEntry j = s.stackEntry j := by
  simp [State.stackEntry, h.symm]

theorem frame_setStackEntry (k : Nat) (w : Word) : Frame [.entry k] s (s.setStackEntry k w) := by
  intro it hit
  cases it with
  | entry j =>
    have hjk : j ≠ k := by simpa using hit
    exact s.stackEntry_setStackEntry_of_ne w hjk
  | _ => rfl

theorem frame_setFlag (c : Bool) : Frame [.reg VF] s (s.setFlag c) := frame_setReg s VF _

theorem frame_setFlagThenReg (c : Bool) (x : RegNum) (b : Byte) :
    Frame [.reg x, .reg VF] s (s.setFlagThenReg c x b) :=
  ((frame_setFlag s c).trans (frame_setReg _ x b)).mono (by simp)

theorem frame_decay : Frame [.dt, .st] s s.decay := (frame_setDt s _).trans (frame_setSt _ _)

/-! ### A block load: the registers loaded, nothing else -/

theorem mem_regItems {n : Nat} (hn : n ≤ 16) {x : RegNum} : Item.reg x ∈ regItems n ↔ x.toNat < n := by
  constructor
  · intro h
    obtain ⟨k, hk, hreg⟩ := List.mem_map.mp h
    obtain rfl : BitVec.ofNat 4 k = x := Item.reg.inj hreg
    have hkn : k < n := List.mem_range.mp hk
    rwa [BitVec.toNat_ofNat, Nat.mod_eq_of_lt (by omega)]
  · intro h
    exact List.mem_map.mpr ⟨x.toNat, List.mem_range.mpr h, congrArg Item.reg (by simp)⟩

theorem frame_setRegs {bs : List Byte} (h : bs.length ≤ 16) : Frame (regItems bs.length) s (s.setRegs 0 bs) := by
  intro it hit
  cases it with
  | reg x =>
    have hx : ¬(0 ≤ x.toNat ∧ x.toNat - 0 < bs.length) := fun hx => hit ((mem_regItems h).mpr hx.2)
    exact (s.reg_setRegs bs 0 x (by omega)).trans (dif_neg hx)
  | _ => rw [State.setRegs_eq]; rfl

end

/-- `STM` and `LDM` move at most all sixteen registers. -/
theorem blockLength_le (x : RegNum) : blockLength x ≤ 16 := x.isLt

end Sys2Proof.Machine
end

section

/-! PROOFS. Execute (40_step_engine.md section 4, 60_exceptions.md section 3): an instruction raises one fault or has
one effect. What the tables of the spec say of every instruction is said here of the fault and of the effect. -/

namespace Sys2Proof.Machine

/-! ### The fault and the effect of an instruction -/

/-- The fault that the checks of an instruction raise, if any. -/
def raised (i : Instr) (s : State) : Option Fault :=
  match i with
  | .ret => if s.stackEmpty then some .stackUnderflow else none
  | .call _ => if s.stackFull then some .stackOverflow else none
  | .drw _ _ n => if s.dataOut n then some s.dataFault else none
  | .bcd _ => if s.dataOut 3 then some s.dataFault else none
  | .stm x => if s.dataOut (blockLength x) then some s.dataFault else none
  | .ldm x => if s.dataOut (blockLength x) then some s.dataFault else none
  | .skp x => if s.keyOut x then some (.keyIndexOutOfBounds (s.reg x)) else none
  | .sknp x => if s.keyOut x then some (.keyIndexOutOfBounds (s.reg x)) else none
  | _ => none

/-- The state that an instruction leaves where it raises no fault; `rand` is the byte of the step. -/
def effect (rand : Byte) (i : Instr) (s : State) : State :=
  match i with
  | .cls => (s.setFb 0).advance
  | .ret => (s.setSp (s.sp - 1)).setPc (s.stackEntry (s.sp.toNat - 1) + 2)
  | .jp nnn => s.setPc (zextAddr nnn)
  | .call nnn => ((s.setStackEntry s.sp.toNat s.pc).setSp (s.sp + 1)).setPc (zextAddr nnn)
  | .sei x kk => s.skipIf (s.reg x == kk)
  | .snei x kk => s.skipIf (s.reg x != kk)
  | .ser x y => s.skipIf (s.reg x == s.reg y)
  | .ldi x kk => (s.setReg x kk).advance
  | .addi x kk => (s.setReg x (addResult (s.reg x) kk)).advance
  | .mov x y => (s.setReg x (s.reg y)).advance
  | .or x y => (s.setReg x (s.reg x ||| s.reg y)).advance
  | .and x y => (s.setReg x (s.reg x &&& s.reg y)).advance
  | .xor x y => (s.setReg x (s.reg x ^^^ s.reg y)).advance
  | .add x y => (s.setFlagThenReg (addCarry (s.reg x) (s.reg y)) x (addResult (s.reg x) (s.reg y))).advance
  | .sub x y => (s.setFlagThenReg (subFlag (s.reg x) (s.reg y)) x (subResult (s.reg x) (s.reg y))).advance
  | .shl6 x _ => (s.setFlagThenReg (shl6Flag (s.reg x)) x (shlResult (s.reg x))).advance
  | .subf x y => (s.setFlagThenReg (subfFlag (s.reg x) (s.reg y)) x (subResult (s.reg x) (s.reg y))).advance
  | .shle x _ => (s.setFlagThenReg (shleFlag (s.reg x)) x (shlResult (s.reg x))).advance
  | .sner x y => s.skipIf (s.reg x != s.reg y)
  | .ldidx nnn => (s.setIndex (zextAddr nnn)).advance
  | .jpv0 nnn => s.setPc (zextAddr nnn + zextByte (s.reg 0))
  | .rnd x kk => (s.countDraw.setReg x (rand &&& kk)).advance
  | .drw x y n => ((s.setFb (s.drawn x y n).1).setFlag (s.drawn x y n).2).advance
  | .skp x => s.skipIf (s.keyOf x)
  | .sknp x => s.skipIf (!s.keyOf x)
  | .lddt x => (s.setReg x s.dt).advance
  | .wkey x => s.lowestKey.elim s fun k => (s.setReg x (BitVec.ofNat 8 k)).advance
  | .stdt x => (s.setDt (s.reg x)).advance
  | .stst x => (s.setSt (s.reg x)).advance
  | .addidx x => ((s.setFlag (indexOverflow s.index (s.reg x))).setIndex (indexSum s.index (s.reg x))).advance
  | .ldfont x => (s.setIndex (zextByte (s.reg x) * 5)).advance
  | .bcd x => (s.storeBytes (s.effAddr 0) (bcdDigits (s.reg x))).advance
  | .stm x => (s.storeBytes (s.effAddr 0) (s.readRegs (blockLength x))).advance
  | .ldm x => (s.setRegs 0 (s.readBytes (s.effAddr 0) (blockLength x))).advance

theorem ite_takeFault_eq_elim (s t : State) (c : Bool) (f : Fault) :
    (if c then takeFault s f else .next t : Result) =
      (if c then some f else none).elim (.next t) (takeFault s) := by
  cases c <;> rfl

/-- What execute does, once: it takes the fault that the instruction's checks raise, or it has the instruction's
effect. -/
theorem execWith_eq (rand : Byte) (i : Instr) (s : State) :
    execWith rand i s = (raised i s).elim (.next (effect rand i s)) (takeFault s) := by
  cases i
  case ret | call | drw | bcd | stm | ldm | skp | sknp => exact ite_takeFault_eq_elim s _ _ _
  case wkey x =>
    simp only [execWith, exec, execWkey, effect, raised, Option.elim_none]
    cases s.lowestKey <;> rfl
  all_goals rfl

theorem exec_eq (i : Instr) (s : State) :
    exec i s = (raised i s).elim (.next (effect (Config.randomByte s.randDraws) i s)) (takeFault s) := by
  rw [← execWith_randomByte, execWith_eq]

/-! ### What an effect writes -/

section
variable (rand : Byte) (i : Instr) (s : State)

/-- R30: an instruction's effect writes at most its own items. -/
theorem frame_effect : Frame (writesOf i s) s (effect rand i s) := by
  cases i with
  | cls => exact (frame_setFb s _).trans (frame_advance _)
  | ret => exact (frame_setSp s _).trans (frame_setPc _ _)
  | jp | jpv0 => exact frame_setPc s _
  | call => exact ((frame_setStackEntry s _ _).trans (frame_setSp _ _)).trans (frame_setPc _ _)
  | sei | snei | ser | sner | skp | sknp => exact frame_skipIf s _
  | ldi | addi | mov | or | and | xor | lddt => exact (frame_setReg s _ _).trans (frame_advance _)
  | add | sub | shl6 | subf | shle => exact (frame_setFlagThenReg s _ _ _).trans (frame_advance _)
  | ldidx | ldfont => exact (frame_setIndex s _).trans (frame_advance _)
  | rnd => exact (((frame_countDraw s).trans (frame_setReg _ _ _)).trans (frame_advance _)).mono (by simp [writesOf])
  | drw => exact ((frame_setFb s _).trans (frame_setFlag _ _)).trans (frame_advance _)
  | wkey x =>
    simp only [effect]
    cases s.lowestKey with
    | none => exact Frame.refl s _
    | some k => exact (frame_setReg s x _).trans (frame_advance _)
  | stdt => exact (frame_setDt s _).trans (frame_advance _)
  | stst => exact (frame_setSt s _).trans (frame_advance _)
  | addidx => exact (((frame_setFlag s _).trans (frame_setIndex _ _)).trans (frame_advance _)).mono (by simp [writesOf])
  | bcd => exact ((frame_storeBytes s _ _).trans (frame_advance _)).mono (by simp [writesOf, bcdDigits])
  | stm => exact ((frame_storeBytes s _ _).trans (frame_advance _)).mono (by simp [writesOf, blockLength])
  | ldm x =>
    have hlen : (s.readBytes (s.effAddr 0) (blockLength x)).length ≤ 16 := by
      rw [State.length_readBytes]; exact blockLength_le x
    exact ((frame_setRegs s hlen).trans (frame_advance _)).mono (by simp [writesOf, blockLength])

theorem keys_not_mem_writesOf : Item.keys ∉ writesOf i s := by
  cases i <;> simp [writesOf, byteItems, regItems]

theorem latch_not_mem_writesOf : Item.latch ∉ writesOf i s := by
  cases i <;> simp [writesOf, byteItems, regItems]

theorem effect_fault : (effect rand i s).fault = s.fault :=
  frame_effect rand i s .latch (latch_not_mem_writesOf i s)

theorem effect_dt : (effect rand i s).dt = dtAtDecay i s := by
  cases i with
  | stdt x => rfl
  | _ => exact frame_effect rand _ s .dt (by simp [writesOf, byteItems, regItems])

theorem effect_st : (effect rand i s).st = stAtDecay i s := by
  cases i with
  | stst x => rfl
  | _ => exact frame_effect rand _ s .st (by simp [writesOf, byteItems, regItems])

theorem State.key_eq_false_of_lowestKey (h : s.lowestKey = none) : ∀ k < 16, s.key k = false := by
  intro k hk
  simp only [State.lowestKey, List.findIdx?_eq_none_iff] at h
  have hmem : s.keys[k] ∈ s.keys.toList := List.getElem_mem (by simpa using hk)
  simpa [State.key, hk] using h _ hmem

/-- R86: an effect leaves pc where the table says. -/
theorem effect_pc : (effect rand i s).pc = pcAfter i s := by
  cases i with
  | cls | ldi | addi | mov | or | and | xor | add | sub | shl6 | subf | shle | ldidx | rnd | drw | lddt | stdt | stst
  | addidx | ldfont | jp | jpv0 | call | ret => rfl
  | bcd | stm | ldm => simp [effect, pcAfter, State.advance]
  | sei | snei | ser | sner => simp [effect, pcAfter, State.skipIf]
  | skp x => rfl
  | sknp x => simp [effect, pcAfter, State.skipIf, State.keyOf]
  | wkey x =>
    cases hk : s.lowestKey with
    | none =>
      have hnone : ¬∃ k < 16, s.key k = true := by
        simpa using s.key_eq_false_of_lowestKey hk
      simp only [effect, hk, pcAfter, if_neg hnone, Option.elim_none]
    | some k =>
      obtain ⟨hlt, hkey, -⟩ := s.lowestPressed_of_lowestKey hk
      have hsome : ∃ k < 16, s.key k = true := ⟨k, hlt, hkey⟩
      simp only [effect, hk, pcAfter, if_pos hsome, Option.elim_some]
      rfl

end

/-! ### What is not read: the draws by all but RND, the stack by all but RET and CALL -/

/-- The state with another call stack. -/
def State.withStack (s : State) (st : Vector Word 16) : State := { s with stack := st }

/-- The state with another count of draws. -/
def State.withDraws (s : State) (d : Nat) : State := { s with randDraws := d }

section
variable {g : State → State}

/-- A change that commutes with the store of one byte commutes with a block store. -/
theorem State.storeBytes_comm (hg : ∀ s a b, (g s).writeByte a b = g (s.writeByte a b)) (s : State) (a : Nat)
    (bs : List Byte) : (g s).storeBytes a bs = g (s.storeBytes a bs) := by
  induction bs generalizing s a with
  | nil => rfl
  | cons b bs ih => rw [State.storeBytes, hg, ih, State.storeBytes]

/-- A change that commutes with the write of one register commutes with a block load. -/
theorem State.setRegs_comm (hg : ∀ s x b, (g s).setReg x b = g (s.setReg x b)) (s : State) (k : Nat)
    (bs : List Byte) : (g s).setRegs k bs = g (s.setRegs k bs) := by
  induction bs generalizing s k with
  | nil => rfl
  | cons b bs ih => rw [State.setRegs, hg, ih, State.setRegs]

end

section
variable (rand : Byte) {i : Instr} (s : State)

/-- The count of draws decides nothing, but RND adds one to it. -/
theorem effect_withDraws (d : Nat) (hrnd : ∀ x kk, i ≠ .rnd x kk) :
    effect rand i (s.withDraws d) = (effect rand i s).withDraws d := by
  cases i with
  | rnd x kk => exact absurd rfl (hrnd x kk)
  | bcd | stm =>
    exact congrArg State.advance (State.storeBytes_comm (g := (State.withDraws · d)) (fun _ _ _ => rfl) s _ _)
  | ldm => exact congrArg State.advance (State.setRegs_comm (g := (State.withDraws · d)) (fun _ _ _ => rfl) s _ _)
  | wkey x =>
    have hkey : (s.withDraws d).lowestKey = s.lowestKey := rfl
    simp only [effect, hkey]
    cases s.lowestKey <;> rfl
  | _ => rfl

/-- The call stack decides nothing but where RET returns to and what a CALL leaves of it. -/
theorem effect_withStack (st : Vector Word 16) (hret : i ≠ .ret) (hcall : ∀ nnn, i ≠ .call nnn) :
    effect rand i (s.withStack st) = (effect rand i s).withStack st := by
  cases i with
  | ret => exact absurd rfl hret
  | call nnn => exact absurd rfl (hcall nnn)
  | bcd | stm =>
    exact congrArg State.advance (State.storeBytes_comm (g := (State.withStack · st)) (fun _ _ _ => rfl) s _ _)
  | ldm => exact congrArg State.advance (State.setRegs_comm (g := (State.withStack · st)) (fun _ _ _ => rfl) s _ _)
  | wkey x =>
    have hkey : (s.withStack st).lowestKey = s.lowestKey := rfl
    simp only [effect, hkey]
    cases s.lowestKey <;> rfl
  | _ => rfl

variable (i)

theorem raised_withDraws (d : Nat) : raised i (s.withDraws d) = raised i s := by
  cases i <;> rfl

theorem raised_withStack (st : Vector Word 16) : raised i (s.withStack st) = raised i s := by
  cases i <;> rfl

end

/-! ### The outcomes of execute -/

section
variable {i : Instr} {s t : State}

theorem exec_of_raised {f : Fault} (h : raised i s = some f) : exec i s = .next (s.raise f) := by
  rw [exec_eq, h]; rfl

/-- What every fault of execute leaves: the latch set, and the rest of the state as it was (60_exceptions.md R236). -/
theorem exec_fault {f : Fault} (h : raised i s = some f) :
    ∃ t, exec i s = .next t ∧ t.fault = some f ∧ Frame [.latch] s t :=
  ⟨_, exec_of_raised h, rfl, frame_raise s f⟩

theorem exec_of_not_raised (h : raised i s = none) :
    exec i s = .next (effect (Config.randomByte s.randDraws) i s) := by
  rw [exec_eq, h]; rfl

/-- What a next state of execute can be. -/
theorem exec_cases (h : exec i s = .next t) :
    (∃ f, raised i s = some f ∧ t = s.raise f) ∨
      (raised i s = none ∧ t = effect (Config.randomByte s.randDraws) i s) := by
  cases hr : raised i s with
  | none =>
    rw [exec_of_not_raised hr] at h
    exact .inr ⟨rfl, (Host.Outcome.next.inj h).symm⟩
  | some f =>
    rw [exec_of_raised hr] at h
    exact .inl ⟨f, rfl, (Host.Outcome.next.inj h).symm⟩

/-- An instruction that completes in an unlatched state has its effect. -/
theorem eq_effect_of_exec (h : exec i s = .next t) (ht : t.fault = none) :
    t = effect (Config.randomByte s.randDraws) i s := by
  obtain ⟨f, -, rfl⟩ | ⟨-, rfl⟩ := exec_cases h
  · exact absurd ht (Option.some_ne_none f)
  · rfl

end

/-! ### The checks (60_exceptions.md section 3) -/

section
variable {s : State} {n : Nat} {x : RegNum}

theorem raised_call_none_iff {nnn : Addr12} : raised (.call nnn) s = none ↔ s.sp.toNat < 16 := by
  simp [raised, s.stackFull_iff]

theorem raised_ret_none_iff : raised .ret s = none ↔ 1 ≤ s.sp.toNat ∧ s.sp.toNat ≤ 16 := by
  simp [raised, s.stackEmpty_iff, Nat.one_le_iff_ne_zero]

/-- The check that the transfers and DRW share passes for an access set within bounds. -/
theorem dataCheck_none_iff :
    (if s.dataOut n then some s.dataFault else none) = none ↔ n = 0 ∨ s.index.toNat + (n - 1) ≤ 4095 := by
  simp only [ite_eq_right_iff, reduceCtorEq, imp_false, s.dataOut_iff]
  omega

theorem dataCheck_fault (hn : 0 < n) (h : 4095 < s.index.toNat + (n - 1)) :
    (if s.dataOut n then some s.dataFault else none) = some (.dataOutOfBounds (max s.index.toNat 4096)) :=
  if_pos ((s.dataOut_iff n).mpr ⟨hn, h⟩)

/-- The check that both key skips share passes for V[x] up to 15. -/
theorem keyCheck_none_iff :
    (if s.keyOut x then some (Fault.keyIndexOutOfBounds (s.reg x)) else none) = none ↔ (s.reg x).toNat ≤ 15 := by
  simp [s.keyOut_iff]

theorem keyCheck_fault (h : 15 < (s.reg x).toNat) :
    (if s.keyOut x then some (Fault.keyIndexOutOfBounds (s.reg x)) else none) =
      some (.keyIndexOutOfBounds (s.reg x)) :=
  if_pos ((s.keyOut_iff x).mpr h)

end

/-- For a stack pointer in 0..16 the checks raise what the list of faults (60_exceptions.md R230, R241) gives. -/
theorem raised_eq_faultOf (i : Instr) {s : State} (hsp : s.sp.toNat ≤ 16) : raised i s = faultOf i s := by
  cases i with
  | ret => exact if_congr (s.stackEmpty_iff.trans (by omega)) rfl rfl
  | call => exact if_congr (s.stackFull_iff.trans (by omega)) rfl rfl
  | drw x y n => exact if_congr (s.dataOut_iff n) rfl rfl
  | bcd => exact if_congr ((s.dataOut_iff 3).trans (by omega)) rfl rfl
  | stm x | ldm x => exact if_congr ((s.dataOut_iff _).trans (by simp [blockLength])) rfl rfl
  | skp x | sknp x => exact if_congr (s.keyOut_iff x) rfl rfl
  | _ => rfl

/-! ### The obligations -/

/-- Settles O17: for sp in 0..16 the fault raised is the listed one, and an effect leaves the latch as it was. -/
theorem executeFaultCauses : Obligations.ExecuteFaultCauses := by
  intro i s hsp hs
  rw [← raised_eq_faultOf i hsp]
  cases hr : raised i s with
  | none => exact ⟨_, exec_of_not_raised hr, (effect_fault _ i s).trans hs, fun _ h => nomatch h⟩
  | some f => exact ⟨_, exec_of_raised hr, rfl, fun _ h => Option.some.inj h ▸ rfl⟩

/-- Settles O19: an effect moves pc by the table, and raising a fault writes the latch alone. -/
theorem pcAfterEveryInstruction : Obligations.PcAfterEveryInstruction := by
  intro i s t hs h
  obtain ⟨f, -, rfl⟩ | ⟨-, rfl⟩ := exec_cases h
  · exact ⟨fun hf => absurd hf (Option.some_ne_none f), fun _ => rfl⟩
  · exact ⟨fun _ => effect_pc _ i s, fun hf => absurd ((effect_fault _ i s).trans hs) hf⟩

/-- Settles O20: an instruction that raises nothing has its effect, whose frame is the table; no row names the keys. -/
theorem writersOfEveryItem : Obligations.WritersOfEveryItem := by
  intro i s t hs h ht
  obtain rfl := eq_effect_of_exec h ht
  exact ⟨frame_effect _ i s, frame_effect _ i s .keys (keys_not_mem_writesOf i s)⟩

/-- Settles O24: neither the checks nor, but for RND, the effect look at the count of draws. -/
theorem onlyRandomReadsDraws : Obligations.OnlyRandomReadsDraws := by
  intro i s d hrnd
  show ∃ t, exec i s = .next t ∧ exec i (s.withDraws d) = .next (t.withDraws d)
  simp only [← execWith_of_ne_rnd _ 0 hrnd, execWith_eq, raised_withDraws, effect_withDraws 0 s d hrnd]
  cases raised i s with
  | none => exact ⟨_, rfl, rfl⟩
  | some f => exact ⟨_, rfl, rfl⟩

end Sys2Proof.Machine
end

section

/-! PROOFS. The step engine (40_step_engine.md): fetch and decode lead to one instruction or to one fault, and a step of
an unlatched core ends in one of three ways, with a report to each. -/

namespace Sys2Proof.Machine

/-! ### Phases 1 and 2 -/

section
variable {s : State} {i : Instr}

theorem fetchDecode_of_decode {bytes rest : List Byte} (hf : fetch s = .ok bytes) (hd : decode bytes = .ok (i, rest)) :
    fetchDecode s = .ok i := by
  simp only [fetchDecode, hf, decodeFetched, hd]

theorem fetchDecode_of_gt (h : 4094 < s.pc.toNat) : fetchDecode s = .error (.fetchOutOfBounds s.pc) := by
  simp only [fetchDecode, fetch_of_gt s h]

theorem fetchDecode_of_illegal (hpc : s.pc.toNat ≤ 4094)
    (h : decodeWord (opcodeOf (s.readByte s.pc.toNat) (s.readByte (s.pc.toNat + 1))) = none) :
    fetchDecode s =
      .error (.illegalOpcode (opcodeOf (s.readByte s.pc.toNat) (s.readByte (s.pc.toNat + 1)))) := by
  simp only [fetchDecode, fetch_of_le s hpc, decodeFetched, decode, h]

/-- Only a pc that passes the fetch bound leads to an instruction. -/
theorem pc_le_of_fetchDecode (h : fetchDecode s = .ok i) : s.pc.toNat ≤ 4094 := by
  by_contra hpc
  rw [fetchDecode_of_gt (by omega)] at h
  cases h

end

theorem State.withFetchWord_encode (s : State) (i : Instr) :
    s.withFetchWord 16 (encode i).toNat = s.placeOpcode (encode i) := by
  rw [State.withFetchWord, Nat.mod_eq_of_lt (encode i).isLt, BitVec.ofNat_toNat, BitVec.setWidth_eq]

theorem fetchDecode_placeOpcode (s : State) {i : Instr} (hpc : s.pc.toNat ≤ 4094) (hi : i.wellFormed = true) :
    fetchDecode (s.placeOpcode (encode i)) = .ok i :=
  fetchDecode_of_decode (fetch_placeOpcode s _ hpc) (decode_encodeBytes hi)

/-! ### How a step ends -/

/-- A step with the byte `rand` answers the next state `t` and reports `r`. -/
def StepsTo (rand : Byte) (s t : State) (r : StepReport) : Prop :=
  stepWith rand s = .next t ∧ stepReportWith rand s = some r

theorem stepReport_eq (s : State) : stepReport s = stepReportWith (Config.randomByte s.randDraws) s := by
  unfold stepReport stepReportWith runReport runPhases
  cases fetchDecode s <;> simp only [execWith_randomByte]

theorem afterStep_eq (s : State) : afterStep s = afterStepWith (Config.randomByte s.randDraws) s := by
  rw [afterStep, afterStepWith, stepWith_randomByte]

section
variable {rand : Byte} {s t : State} {r : StepReport} {i : Instr} {f : Fault}

theorem StepsTo.afterStepWith_eq (h : StepsTo rand s t r) : afterStepWith rand s = t := by
  rw [afterStepWith, h.1, stateAfter]

variable (rand) in
theorem stepWith_latched (hf : s.fault = some f) :
    stepWith rand s = .fault f ∧ stepReportWith rand s = some (.fault f) ∧ afterStepWith rand s = s := by
  have hstep := stepWith_of_latched s rand hf
  refine ⟨hstep, ?_, ?_⟩
  · simp only [stepReportWith, runReport, hf]
  · rw [afterStepWith, hstep, stateAfter]

theorem State.retire_raise : (s.raise f).retire = s.raise f := State.retire_of_fault _ rfl

theorem stepsTo_of_runPhases (hs : s.fault = none) (h : runPhases (execWith rand) s = .next t) :
    StepsTo rand s t.retire t.report := by
  constructor
  · simp only [stepWith, runStep, hs, h, retireResult]
  · simp only [stepReportWith, runReport, hs, h]

theorem stepsTo_of_fetchFault (hs : s.fault = none) (h : fetchDecode s = .error f) :
    StepsTo rand s (s.raise f) (.fault f) := by
  have hrun : runPhases (execWith rand) s = .next (s.raise f) := by simp only [runPhases, h, takeFault]
  exact State.retire_raise (s := s) ▸ stepsTo_of_runPhases hs hrun

theorem stepsTo_of_raised (hs : s.fault = none) (h : fetchDecode s = .ok i) (hr : raised i s = some f) :
    StepsTo rand s (s.raise f) (.fault f) := by
  have hrun : runPhases (execWith rand) s = .next (s.raise f) := by
    simp only [runPhases, h, execWith_eq, hr, Option.elim_some, takeFault]
  exact State.retire_raise (s := s) ▸ stepsTo_of_runPhases hs hrun

theorem stepsTo_of_effect (hs : s.fault = none) (h : fetchDecode s = .ok i) (hr : raised i s = none) :
    StepsTo rand s (effect rand i s).decay (.ok (effect rand i s).toneTick) := by
  have hrun : runPhases (execWith rand) s = .next (effect rand i s) := by
    simp only [runPhases, h, execWith_eq, hr, Option.elim_none]
  have hnone : (effect rand i s).fault = none := (effect_fault rand i s).trans hs
  have hreport : (effect rand i s).report = .ok (effect rand i s).toneTick := by simp only [State.report, hnone]
  rw [← hreport, ← State.retire_of_none _ hnone]
  exact stepsTo_of_runPhases hs hrun

variable (rand) in
/-- A step of an unlatched core raises one fault, in fetch, decode or execute, or it has the effect of the decoded
instruction and both timers decay. -/
theorem stepsTo_cases (hs : s.fault = none) :
    (∃ f, StepsTo rand s (s.raise f) (.fault f)) ∨
      ∃ i, fetchDecode s = .ok i ∧ raised i s = none ∧
        StepsTo rand s (effect rand i s).decay (.ok (effect rand i s).toneTick) := by
  cases h : fetchDecode s with
  | error f => exact .inl ⟨f, stepsTo_of_fetchFault hs h⟩
  | ok i =>
    cases hr : raised i s with
    | some f => exact .inl ⟨f, stepsTo_of_raised hs h hr⟩
    | none => exact .inr ⟨i, rfl, hr, stepsTo_of_effect hs h hr⟩

/-- The same of a known next state. -/
theorem stepWith_cases (hs : s.fault = none) (h : stepWith rand s = .next t) :
    (∃ f, t = s.raise f ∧ stepReportWith rand s = some (.fault f)) ∨
      ∃ i, fetchDecode s = .ok i ∧ raised i s = none ∧ t = (effect rand i s).decay ∧
        stepReportWith rand s = some (.ok (effect rand i s).toneTick) := by
  obtain ⟨f, ht, hr⟩ | ⟨i, hi, hraised, ht, hr⟩ := stepsTo_cases rand hs
  · exact .inl ⟨f, Host.Outcome.next.inj (h.symm.trans ht), hr⟩
  · exact .inr ⟨i, hi, hraised, Host.Outcome.next.inj (h.symm.trans ht), hr⟩

theorem effect_decay_fault (hs : s.fault = none) : (effect rand i s).decay.fault = none :=
  (effect_fault rand i s).trans hs

end

/-- A fault in fetch or decode is taken by the step with the free byte too. -/
theorem step_fetchFault {s : State} {f : Fault} (hs : s.fault = none) (h : fetchDecode s = .error f) :
    ∃ t, step s = .next t ∧ t.fault = some f ∧ Frame [.latch] s t ∧ stepReport s = some (.fault f) :=
  ⟨_, step_of_fetchFault s hs h, rfl, frame_raise s f, (stepReport_eq s).trans (stepsTo_of_fetchFault hs h).2⟩

/-- A step that latches a fault is precise (R236). -/
theorem stepWith_fault {rand : Byte} {s t : State} {f : Fault} (hs : s.fault = none) (ht : t.fault = some f)
    (h : stepWith rand s = .next t) : t = s.raise f ∧ stepReportWith rand s = some (.fault f) := by
  obtain ⟨f', rfl, hr⟩ | ⟨i, -, -, rfl, -⟩ := stepWith_cases hs h
  · obtain rfl := Option.some.inj ht
    exact ⟨rfl, hr⟩
  · cases (effect_decay_fault hs).symm.trans ht

/-- An unlatched step answers a next state, and its report and the latch agree. -/
theorem stepWith_next (rand : Byte) {s : State} (hs : s.fault = none) :
    ∃ t r, stepWith rand s = .next t ∧ stepReportWith rand s = some r ∧ ∀ f, r = .fault f ↔ t.fault = some f := by
  obtain ⟨f, ht, hr⟩ | ⟨i, -, -, ht, hr⟩ := stepsTo_cases rand hs
  · exact ⟨_, _, ht, hr, by simp⟩
  · exact ⟨_, _, ht, hr, by simp [effect_decay_fault hs]⟩

/-- The report of a step that has decoded `i`, by the latch of the state it leaves. -/
theorem stepReportWith_of_next {rand : Byte} {s t : State} {i : Instr} (hs : s.fault = none)
    (hi : fetchDecode s = .ok i) (h : stepWith rand s = .next t) :
    (t.fault = none → stepReportWith rand s = some (.ok (decide (stAtDecay i s = 1)))) ∧
      ∀ f, t.fault = some f → stepReportWith rand s = some (.fault f) := by
  refine ⟨fun ht => ?_, fun f ht => (stepWith_fault hs ht h).2⟩
  obtain ⟨f, rfl, -⟩ | ⟨j, hj, -, rfl, hr⟩ := stepWith_cases hs h
  · cases ht
  · obtain rfl := Except.ok.inj (hj.symm.trans hi)
    rw [hr, ← effect_st rand]
    rfl

/-! ### The obligations -/

/-- Settles O11: the decoded instruction executes, and phase 4 decays the timers of what it leaves, or does nothing
where it raised a fault. -/
theorem stepRunsDecodedInstruction : Obligations.StepRunsDecodedInstruction := by
  intro s i rest hs hpc hd _
  have hstep : step s = retireResult (exec i s) :=
    step_of_fetchDecode s hs (fetchDecode_of_decode (fetch_of_le s hpc) hd)
  refine ⟨hstep, fun t ht => ⟨fun hnone => ?_, fun f hf => ?_⟩⟩
  · refine ⟨t.decay, ?_, decayTimer_toNat _, decayTimer_toNat _, frame_decay t⟩
    rw [hstep, ht, retireResult, State.retire_of_none t hnone]
  · rw [hstep, ht, retireResult, State.retire_of_fault t hf]

/-- Settles O12: the placed word is fetched, and the decoder gives back the instruction it encodes. -/
theorem placedWordRunsNext : Obligations.PlacedWordRunsNext := by
  intro s i hpc hi
  rw [s.withFetchWord_encode i]
  exact step_of_fetchDecode _ rfl (fetchDecode_placeOpcode s hpc hi)

/-- Settles O13: fetch answers the fault with pc, and the step takes it. -/
theorem fetchBoundFault : Obligations.FetchBoundFault :=
  fun _ hs hpc => step_fetchFault hs (fetchDecode_of_gt hpc)

/-- Settles O14: a word of the illegal set has no instruction, so decode answers the fault with the word. -/
theorem illegalOpcodeFault : Obligations.IllegalOpcodeFault :=
  fun _ hs hpc hill => step_fetchFault hs (fetchDecode_of_illegal hpc ((decodeWord_eq_none_iff _).mpr hill))

/-- Settles O15: the latch check comes before fetch, whatever the byte. -/
theorem latchedCoreAnswersItsFault : Obligations.LatchedCoreAnswersItsFault := by
  intro s f hf
  refine ⟨?_, fun rand => stepWith_latched rand hf⟩
  rw [← stepWith_randomByte, stepReport_eq, afterStep_eq]
  exact stepWith_latched _ hf

/-- Settles O16: of the ways in which an unlatched step ends, only the raised fault leaves a latch. -/
theorem faultsArePrecise : Obligations.FaultsArePrecise := by
  intro s t f hs ht
  refine ⟨fun h => ?_, fun rand h => stepWith_fault hs ht h⟩
  rw [stepReport_eq]
  exact stepWith_fault hs ht ((stepWith_randomByte s).trans h)

/-- Settles O18: each way in which an unlatched step ends has its next state and its report. -/
theorem unlatchedStepAnswersNext : Obligations.UnlatchedStepAnswersNext := by
  intro s hs
  refine ⟨?_, fun rand => stepWith_next rand hs⟩
  rw [← stepWith_randomByte, stepReport_eq]
  exact stepWith_next _ hs

/-- Settles O21: a step without a fault is an effect and the decay, and an effect leaves each timer as its table
says. -/
theorem timersDecayEachStep : Obligations.TimersDecayEachStep := by
  intro s t i hs hi ht hstep
  obtain ⟨rand, h⟩ : ∃ rand, stepWith rand s = .next t :=
    hstep.elim (fun h => ⟨_, (stepWith_randomByte s).trans h⟩) id
  obtain ⟨f, rfl, -⟩ | ⟨j, hj, -, rfl, -⟩ := stepWith_cases hs h
  · cases ht
  · obtain rfl := Except.ok.inj (hj.symm.trans hi)
    rw [← effect_dt rand, ← effect_st rand]
    exact ⟨decayTimer_toNat _, decayTimer_toNat _⟩

/-- Settles O22: the tick reads ST as the effect leaves it; a fault is reported without one. -/
theorem toneTickOnLastCount : Obligations.ToneTickOnLastCount := by
  intro s t i hs hi
  refine ⟨fun h => ?_, fun rand h => stepReportWith_of_next hs hi h⟩
  rw [stepReport_eq]
  exact stepReportWith_of_next hs hi ((stepWith_randomByte s).trans h)

end Sys2Proof.Machine
end

section

/-! PROOFS. The invariant (10_state.md sections 4 and 6): it holds at reset and every step keeps it. -/

namespace Sys2Proof.Machine

/-! ### pc: the largest value any instruction can produce is 0x10FE -/

/-- The advance and both skips stay far below 0x10FE from a pc that passed the fetch bound. -/
theorem pc_add_toNat_le {a b : Word} (ha : a.toNat ≤ 4094) (hb : b.toNat ≤ 4) : (a + b).toNat ≤ 0x10FE := by
  rw [BitVec.toNat_add, Nat.mod_eq_of_lt (by omega)]
  omega

theorem addr_toNat_le (nnn : Addr12) : (zextAddr nnn).toNat ≤ 0x10FE := by
  have hlt : nnn.toNat < 4096 := nnn.isLt
  rw [zextAddr_toNat]
  omega

theorem pcAfter_le (i : Instr) {s : State} (hs : s.Inv) (hpc : s.pc.toNat ≤ 4094) :
    (pcAfter i s).toNat ≤ 0x10FE := by
  have h2 : (s.pc + 2).toNat ≤ 0x10FE := pc_add_toNat_le hpc (by decide)
  have h4 : (s.pc + 4).toNat ≤ 0x10FE := pc_add_toNat_le hpc (by decide)
  cases i with
  | ret =>
    have hsp := hs.sp
    exact pc_add_toNat_le (hs.stack _ (by omega)) (by decide)
  | jp nnn | call nnn => exact addr_toNat_le nnn
  | jpv0 nnn => exact (zextAddr_add_zextByte_toNat nnn (s.reg 0)).trans_le (addr_add_byte_le nnn (s.reg 0))
  | sei | snei | ser | sner | skp | sknp =>
    simp only [pcAfter]
    split
    · exact h4
    · exact h2
  | wkey =>
    simp only [pcAfter]
    split
    · exact h2
    · exact hs.pc
  | _ => exact h2

/-! ### Memory, the stack pointer and the stack -/

theorem font_not_mem_writesOf (i : Instr) (s : State) : Item.font ∉ writesOf i s := by
  cases i <;> simp [writesOf, byteItems, regItems]

/-- Only BCD and STM store, and what they store lies in bounds where they raise nothing. -/
theorem wf_effect (rand : Byte) (i : Instr) {s : State} (hs : Memory.wf s.font s.mem) (hr : raised i s = none) :
    Memory.wf s.font (effect rand i s).mem := by
  have hin {n : Nat} (hcheck : (if s.dataOut n then some s.dataFault else none) = none) (hn : 0 < n) :
      s.effAddr 0 + n ≤ 4096 := by
    have hbound := dataCheck_none_iff.mp hcheck
    have haddr : s.effAddr 0 = s.index.toNat := rfl
    omega
  cases i with
  | bcd x => exact s.wf_storeBytes (bcdDigits (s.reg x)) _ hs (hin hr (Nat.succ_pos 2))
  | stm x => exact s.wf_storeBytes _ _ hs (by simpa using hin hr (Nat.succ_pos _))
  | ldm x => simpa [effect, State.advance] using hs
  | wkey x =>
    simp only [effect]
    cases s.lowestKey <;> exact hs
  | _ => exact hs

theorem byte_succ_toNat {p : Byte} (h : p.toNat < 255) : (p + 1).toNat = p.toNat + 1 :=
  (BitVec.toNat_add p 1).trans (Nat.mod_eq_of_lt (Nat.succ_lt_succ h))

theorem byte_pred_toNat {p : Byte} (h : 1 ≤ p.toNat) : (p - 1).toNat = p.toNat - 1 :=
  BitVec.toNat_sub_of_le (BitVec.le_def.mpr h)

section
variable (rand : Byte) {i : Instr} (s : State)

/-- Only RET and CALL move the stack pointer. -/
theorem effect_sp_of_ne (hret : i ≠ .ret) (hcall : ∀ nnn, i ≠ .call nnn) : (effect rand i s).sp = s.sp := by
  cases i with
  | ret => exact absurd rfl hret
  | call nnn => exact absurd rfl (hcall nnn)
  | _ => exact frame_effect rand _ s .sp (by simp [writesOf, byteItems, regItems])

/-- Only CALL writes a stack entry. -/
theorem effect_stackEntry_of_ne (hcall : ∀ nnn, i ≠ .call nnn) (k : Nat) :
    (effect rand i s).stackEntry k = s.stackEntry k := by
  cases i with
  | call nnn => exact absurd rfl (hcall nnn)
  | _ => exact frame_effect rand _ s (.entry k) (by simp [writesOf, byteItems, regItems])

end

theorem effect_call_sp (rand : Byte) (nnn : Addr12) {s : State} (h : s.sp.toNat < 16) :
    (effect rand (.call nnn) s).sp.toNat = s.sp.toNat + 1 := byte_succ_toNat (by omega)

theorem effect_call_stackEntry (rand : Byte) (nnn : Addr12) {s : State} (h : s.sp.toNat < 16) (k : Nat) :
    (effect rand (.call nnn) s).stackEntry k = if k = s.sp.toNat then s.pc else s.stackEntry k :=
  s.stackEntry_setStackEntry _ _ _ h

theorem effect_ret_sp (rand : Byte) {s : State} (h : 1 ≤ s.sp.toNat) :
    (effect rand .ret s).sp.toNat = s.sp.toNat - 1 := byte_pred_toNat h

theorem effect_sp_le (rand : Byte) (i : Instr) {s : State} (hs : s.sp.toNat ≤ 16) (hr : raised i s = none) :
    (effect rand i s).sp.toNat ≤ 16 := by
  cases i with
  | call nnn =>
    have hlt := raised_call_none_iff.mp hr
    rw [effect_call_sp rand nnn hlt]
    omega
  | ret =>
    obtain ⟨hpos, -⟩ := raised_ret_none_iff.mp hr
    rw [effect_ret_sp rand hpos]
    omega
  | _ => rwa [effect_sp_of_ne rand s (by simp) (by simp)]

theorem effect_stackEntry_le (rand : Byte) (i : Instr) {s : State} (hs : s.Inv) (hpc : s.pc.toNat ≤ 4094)
    (hr : raised i s = none) : ∀ k < 16, ((effect rand i s).stackEntry k).toNat ≤ 4094 := by
  intro k hk
  cases i with
  | call nnn =>
    rw [effect_call_stackEntry rand nnn (raised_call_none_iff.mp hr)]
    split
    · exact hpc
    · exact hs.stack k hk
  | _ => rw [effect_stackEntry_of_ne rand s (by simp)]; exact hs.stack k hk

/-- An effect from a pc that passed the fetch bound keeps the invariant. -/
theorem effect_inv (rand : Byte) (i : Instr) {s : State} (hs : s.Inv) (hpc : s.pc.toNat ≤ 4094)
    (hr : raised i s = none) : (effect rand i s).Inv where
  mem := by
    have hfont : (effect rand i s).font = s.font := frame_effect rand i s .font (font_not_mem_writesOf i s)
    exact hfont ▸ wf_effect rand i hs.mem hr
  sp := effect_sp_le rand i hs.sp hr
  stack := effect_stackEntry_le rand i hs hpc hr
  pc := effect_pc rand i s ▸ pcAfter_le i hs hpc

theorem State.Inv.decay {s : State} (h : s.Inv) : s.decay.Inv := ⟨h.mem, h.sp, h.stack, h.pc⟩

theorem State.Inv.raise {s : State} (h : s.Inv) (f : Fault) : (s.raise f).Inv := ⟨h.mem, h.sp, h.stack, h.pc⟩

theorem stepWith_inv {rand : Byte} {s t : State} (hs : s.Inv) (h : stepWith rand s = .next t) : t.Inv := by
  cases hf : s.fault with
  | some f => cases (stepWith_of_latched s rand hf).symm.trans h
  | none =>
    obtain ⟨f, rfl, -⟩ | ⟨i, hi, hr, rfl, -⟩ := stepWith_cases hf h
    · exact hs.raise f
    · exact (effect_inv rand i hs (pc_le_of_fetchDecode hi) hr).decay

/-! ### The obligations -/

/-- Settles O8: at reset memory lists nothing, the stack is empty and pc is 0x200. -/
theorem resetMeetsInvariant : Obligations.ResetMeetsInvariant where
  mem := Memory.wf_nil defaultFont
  sp := by decide
  stack := fun k hk => by
    have hzero : State.reset.stackEntry k = 0 := State.stackEntry_initial defaultFont hk
    rw [hzero]
    decide
  pc := by decide

/-- Settles O9: the step with the free byte is the step with a supplied one. -/
theorem stepKeepsInvariant : Obligations.StepKeepsInvariant :=
  fun s _ hs => ⟨fun h => stepWith_inv hs ((stepWith_randomByte s).trans h), fun _ h => stepWith_inv hs h⟩

end Sys2Proof.Machine
end

section

/-! PROOFS. Stale stack entries (10_state.md section 6, D28): no step looks at an entry at or above sp. -/

namespace Sys2Proof.Machine

section
variable {s s' : State}

/-- A change of state that leaves the stack pointer and the stack alone keeps two states the same but for stale
entries. -/
theorem SameButStale.map {g : State → State} (hg : ∀ s st, g (s.withStack st) = (g s).withStack st)
    (hsp : (g s).sp = s.sp) (hstack : ∀ s k, (g s).stackEntry k = s.stackEntry k) (h : SameButStale s s') :
    SameButStale (g s) (g s') := by
  obtain ⟨⟨st, rfl⟩, hlive⟩ := h
  refine ⟨⟨st, hg s st⟩, fun k hk => ?_⟩
  rw [hstack, hstack]
  exact hlive k (hsp ▸ hk)

theorem SameButStale.effect_call (rand : Byte) (nnn : Addr12) (h : SameButStale s s') (hsp : s.sp.toNat < 16) :
    SameButStale (effect rand (.call nnn) s) (effect rand (.call nnn) s') := by
  obtain ⟨⟨st, rfl⟩, hlive⟩ := h
  have hsp' : (s.withStack st).sp.toNat < 16 := hsp
  refine ⟨⟨_, rfl⟩, fun k hk => ?_⟩
  rw [effect_call_sp rand nnn hsp] at hk
  refine (effect_call_stackEntry rand nnn hsp' k).trans (Eq.trans ?_ (effect_call_stackEntry rand nnn hsp k).symm)
  by_cases hkey : k = s.sp.toNat
  · rw [if_pos hkey]; exact if_pos hkey
  · rw [if_neg hkey]; exact (if_neg hkey).trans (hlive k (by omega))

/-- RET reads the entry below sp, which is live. -/
theorem SameButStale.effect_ret (rand : Byte) (h : SameButStale s s') (hsp : 1 ≤ s.sp.toNat) :
    SameButStale (effect rand .ret s) (effect rand .ret s') := by
  obtain ⟨⟨st, rfl⟩, hlive⟩ := h
  have htop : (s.withStack st).stackEntry (s.sp.toNat - 1) = s.stackEntry (s.sp.toNat - 1) := hlive _ (by omega)
  refine ⟨⟨st, congrArg (fun w => ((s.withStack st).setSp (s.sp - 1)).setPc (w + 2)) htop⟩, fun k hk => ?_⟩
  rw [effect_ret_sp rand hsp] at hk
  exact hlive k (by omega)

theorem SameButStale.effect (rand : Byte) (i : Instr) (h : SameButStale s s') (hr : raised i s = none) :
    SameButStale (effect rand i s) (effect rand i s') := by
  by_cases hret : i = .ret
  · subst hret
    exact h.effect_ret rand (raised_ret_none_iff.mp hr).1
  · by_cases hcall : ∃ nnn, i = .call nnn
    · obtain ⟨nnn, rfl⟩ := hcall
      exact h.effect_call rand nnn (raised_call_none_iff.mp hr)
    · have hcall : ∀ nnn, i ≠ .call nnn := not_exists.mp hcall
      exact h.map (fun s st => effect_withStack rand s st hret hcall) (effect_sp_of_ne rand s hret hcall)
        (fun s => effect_stackEntry_of_ne rand s hcall)

/-- Two steps that report alike and end in states that differ in stale entries alone. -/
theorem StepsTo.stale {rand : Byte} {t t' : State} {r : StepReport} (h : StepsTo rand s t r) (h' : StepsTo rand s' t' r)
    (ht : SameButStale t t') :
    stepReportWith rand s = stepReportWith rand s' ∧
      SameButStale (afterStepWith rand s) (afterStepWith rand s') := by
  rw [h.afterStepWith_eq, h'.afterStepWith_eq]
  exact ⟨h.2.trans h'.2.symm, ht⟩

/-- Fetch, decode and the checks of execute see the same in both states, so both steps end in the same way. -/
theorem SameButStale.step (rand : Byte) (h : SameButStale s s') :
    stepReportWith rand s = stepReportWith rand s' ∧
      SameButStale (afterStepWith rand s) (afterStepWith rand s') := by
  obtain ⟨st, hst⟩ : ∃ st, s' = s.withStack st := h.1
  have hfault : s'.fault = s.fault := hst ▸ rfl
  have hdecode : fetchDecode s' = fetchDecode s := hst ▸ rfl
  have hraised (i : Instr) : raised i s' = raised i s := hst ▸ raised_withStack i s st
  have hraise (f : Fault) : SameButStale (s.raise f) (s'.raise f) :=
    h.map (g := (State.raise · f)) (fun _ _ => rfl) rfl (fun _ _ => rfl)
  cases hs : s.fault with
  | some f =>
    obtain ⟨-, hreport, hafter⟩ := stepWith_latched rand hs
    obtain ⟨-, hreport', hafter'⟩ := stepWith_latched rand (hfault.trans hs)
    rw [hreport, hreport', hafter, hafter']
    exact ⟨rfl, h⟩
  | none =>
    have hs' : s'.fault = none := hfault.trans hs
    cases hi : fetchDecode s with
    | error f => exact (stepsTo_of_fetchFault hs hi).stale (stepsTo_of_fetchFault hs' (hdecode.trans hi)) (hraise f)
    | ok i =>
      have hi' := hdecode.trans hi
      cases hr : raised i s with
      | some f =>
        exact (stepsTo_of_raised hs hi hr).stale (stepsTo_of_raised hs' hi' ((hraised i).trans hr)) (hraise f)
      | none =>
        have he := h.effect rand i hr
        have htick : (Machine.effect rand i s').toneTick = (Machine.effect rand i s).toneTick := by
          obtain ⟨⟨_, hst⟩, -⟩ := he
          rw [hst]; rfl
        refine (stepsTo_of_effect hs hi hr).stale (htick ▸ stepsTo_of_effect hs' hi' ((hraised i).trans hr)) ?_
        exact he.map (g := State.decay) (fun _ _ => rfl) rfl (fun _ _ => rfl)

end

/-! ### The obligation -/

/-- Settles O23: both states have drawn as often, so the step without a supplied byte has one free byte for both. -/
theorem staleStackUnobservable : Obligations.StaleStackUnobservable := by
  intro s s' _ h
  refine ⟨?_, fun rand => h.step rand⟩
  have hdraws : s'.randDraws = s.randDraws := by
    obtain ⟨⟨_, rfl⟩, -⟩ := h
    rfl
  rw [stepReport_eq, stepReport_eq s', afterStep_eq, afterStep_eq s', hdraws]
  exact h.step _

end Sys2Proof.Machine
end

section

/-! PROOFS. Calls and returns (41_control_flow.md sections 2 and 4): what CALL pushes is what RET resumes after. -/

namespace Sys2Proof.Machine

/-! ### The obligations -/

/-- Settles O29: with a free entry CALL has its effect; with sp = 16 its check raises the overflow. -/
theorem callPushesOwnAddress : Obligations.CallPushesOwnAddress := by
  intro nnn s
  refine ⟨fun hsp => ?_, fun hsp => exec_fault (if_pos (s.stackFull_iff.mpr hsp.ge))⟩
  have hpushed : (effect (Config.randomByte s.randDraws) (.call nnn) s).stackEntry s.sp.toNat = s.pc :=
    (effect_call_stackEntry _ nnn hsp _).trans (if_pos rfl)
  exact ⟨_, exec_of_not_raised (raised_call_none_iff.mpr hsp), hpushed, effect_call_sp _ nnn hsp, zextAddr_toNat nnn,
    frame_effect _ (.call nnn) s⟩

/-- Settles O30: with an entry in use RET has its effect, which writes no entry; with sp = 0 its check raises the
underflow. -/
theorem returnPopsAndAddsTwo : Obligations.ReturnPopsAndAddsTwo := by
  intro s
  refine ⟨fun hpos hle => ?_, fun hsp => exec_fault (if_pos (s.stackEmpty_iff.mpr (.inl hsp)))⟩
  exact ⟨_, exec_of_not_raised (raised_ret_none_iff.mpr ⟨hpos, hle⟩), effect_ret_sp _ hpos, rfl,
    frame_effect _ .ret s⟩

/-- Settles O31: RET finds the pushed address below its stack pointer. -/
theorem callThenReturnResumes : Obligations.CallThenReturnResumes := by
  intro nnn s hsp
  obtain ⟨hcall, -⟩ := callPushesOwnAddress nnn s
  obtain ⟨t, ht, hpushed, htsp, -⟩ := hcall hsp
  refine ⟨t, ht, fun u husp hentry => ?_⟩
  have husp' : u.sp.toNat = s.sp.toNat + 1 := husp ▸ htsp
  obtain ⟨hret, -⟩ := returnPopsAndAddsTwo u
  obtain ⟨w, hw, hwsp, hwpc, -⟩ := hret (by omega) (by omega)
  refine ⟨w, hw, ?_, BitVec.eq_of_toNat_eq (by omega)⟩
  rw [hwpc, husp', Nat.add_sub_cancel, hentry, hpushed]

end Sys2Proof.Machine
end

section

/-! PROOFS. Arithmetic with a flag and the random byte (42_alu.md sections 4 and 5), and the flag of `ADDIDX`
(43_index_memory.md section 2). -/

namespace Sys2Proof.Machine

/-! ### A flag first and a result second -/

theorem ite_eq_flagValue {c : Bool} {p : Prop} [Decidable p] (h : c = true ↔ p) :
    (if c then 1 else 0 : Byte) = flagValue p := if_congr h rfl rfl

/-- What the five instructions with a flag in VF share. `p` is the condition that a statement gives for the flag. -/
theorem exec_setFlagThenReg_advance {i : Instr} {s : State} {c : Bool} {x : RegNum} {b : Byte} {p : Prop} [Decidable p]
    (hexec : exec i s = .next (s.setFlagThenReg c x b).advance) (hc : c = true ↔ p) :
    ∃ t, exec i s = .next t ∧ t.reg x = b ∧ (x ≠ VF → t.reg VF = flagValue p) ∧ t.pc = s.pc + 2 ∧
      Frame [.reg x, .reg VF, .pc] s t := by
  refine ⟨_, hexec, (s.reg_setFlagThenReg c x x b).trans (if_pos rfl), fun hx => ?_, rfl,
    (frame_setFlagThenReg s c x b).trans (frame_advance _)⟩
  calc (s.setFlagThenReg c x b).reg VF
      = if VF = VF then (if c then 1 else 0) else s.reg VF := (s.reg_setFlagThenReg c x VF b).trans (if_neg hx.symm)
    _ = if c then 1 else 0 := if_pos rfl
    _ = flagValue p := ite_eq_flagValue hc

/-! ### The results as arithmetic -/

section
variable (a b : Byte)

/-- The difference of R128 and R130. -/
theorem subResult_toNat : ((subResult a b).toNat : Int) = (a.toNat - b.toNat : Int) % 256 := by
  have hb : b.toNat < 256 := b.isLt
  rw [subResult, BitVec.toNat_sub]
  omega

/-- The shift of R129 and R131. -/
theorem shlResult_toNat : (shlResult a).toNat = a.toNat * 2 % 256 := by
  rw [shlResult, BitVec.toNat_shiftLeft, Nat.shiftLeft_eq]

theorem shl6Flag_iff : shl6Flag a = true ↔ a.toNat % 2 = 1 := by
  rw [shl6Flag, BitVec.getLsbD, Nat.testBit_zero, decide_eq_true_iff]

theorem shleFlag_iff : shleFlag a = true ↔ a.toNat ≥ 128 := by
  have hmsb : a.getLsbD 7 = a.msb := (BitVec.msb_eq_getLsbD_last a).symm
  rw [shleFlag, hmsb, BitVec.msb_eq_decide, decide_eq_true_iff]

theorem indexSum_toNat (i : Word) : (indexSum i a).toNat = (i.toNat + a.toNat) % 65536 := by
  rw [indexSum, BitVec.toNat_add, zextByte_toNat]

end

/-! ### The obligations -/

/-- Settles O34: the sum modulo 256, with the carry of the integer sum as flag. -/
theorem addWithCarryFlag : Obligations.AddWithCarryFlag := by
  intro x y s
  have hexec : exec (.add x y) s =
    .next (s.setFlagThenReg (addCarry (s.reg x) (s.reg y)) x (addResult (s.reg x) (s.reg y))).advance := rfl
  obtain ⟨t, ht, hreg, hrest⟩ := exec_setFlagThenReg_advance hexec decide_eq_true_iff
  exact ⟨t, ht, hreg ▸ addResult_toNat _ _, hrest⟩

/-- Settles O35: one difference for both, and the two strict comparisons as flags. -/
theorem subtractWithStrictFlag : Obligations.SubtractWithStrictFlag := by
  intro x y s
  have hsub : exec (.sub x y) s =
    .next (s.setFlagThenReg (subFlag (s.reg x) (s.reg y)) x (subResult (s.reg x) (s.reg y))).advance := rfl
  have hsubf : exec (.subf x y) s =
    .next (s.setFlagThenReg (subfFlag (s.reg x) (s.reg y)) x (subResult (s.reg x) (s.reg y))).advance := rfl
  constructor
  · obtain ⟨t, ht, hreg, hrest⟩ := exec_setFlagThenReg_advance hsub decide_eq_true_iff
    exact ⟨t, ht, hreg ▸ subResult_toNat _ _, hrest⟩
  · obtain ⟨t, ht, hreg, hrest⟩ := exec_setFlagThenReg_advance hsubf decide_eq_true_iff
    exact ⟨t, ht, hreg ▸ subResult_toNat _ _, hrest⟩

/-- Settles O36: one shift for both, with the old bit 0 or the old bit 7 as flag; neither meaning takes the field y. -/
theorem shiftsLeftWithFlag : Obligations.ShiftsLeftWithFlag := by
  intro x y s
  have hshl6 : exec (.shl6 x y) s =
    .next (s.setFlagThenReg (shl6Flag (s.reg x)) x (shlResult (s.reg x))).advance := rfl
  have hshle : exec (.shle x y) s =
    .next (s.setFlagThenReg (shleFlag (s.reg x)) x (shlResult (s.reg x))).advance := rfl
  constructor
  · obtain ⟨t, ht, hreg, hrest⟩ := exec_setFlagThenReg_advance hshl6 (shl6Flag_iff _)
    exact ⟨t, ht, hreg ▸ shlResult_toNat _, hrest⟩
  · obtain ⟨t, ht, hreg, hrest⟩ := exec_setFlagThenReg_advance hshle (shleFlag_iff _)
    exact ⟨t, ht, hreg ▸ shlResult_toNat _, hrest⟩

/-- Settles O37: the masked byte has no bit that the mask lacks, whatever the byte. -/
theorem randomMasked : Obligations.RandomMasked := by
  intro x kk s
  have hreg (rand : Byte) : (effect rand (.rnd x kk) s).reg x = rand &&& kk := State.reg_setReg_self _ x _
  refine ⟨fun rand => ⟨_, rfl, hreg rand, rfl, frame_effect rand (.rnd x kk) s⟩,
    effect (Config.randomByte s.randDraws) (.rnd x kk) s, rfl, hreg _, ?_, fun j _ hj => ?_, rfl, rfl,
    frame_effect _ (.rnd x kk) s⟩
  · rw [hreg, BitVec.toNat_and]
    exact Nat.and_le_right
  · rw [hreg, BitVec.getLsbD_and, hj, Bool.and_false]

/-- Settles O39: VF is no operand once I is written, so the flag stays also for x = 15. -/
theorem addIndexWithFlag : Obligations.AddIndexWithFlag := by
  intro x s
  have hflag : (s.setFlag (indexOverflow s.index (s.reg x))).reg VF =
      flagValue (s.index.toNat + (s.reg x).toNat > 0xFFF) :=
    (s.reg_setReg_self VF _).trans (ite_eq_flagValue decide_eq_true_iff)
  exact ⟨effect 0 (.addidx x) s, rfl, indexSum_toNat _ _, hflag, rfl, frame_effect 0 (.addidx x) s⟩

end Sys2Proof.Machine
end

section

/-! PROOFS. Memory transfers (43_index_memory.md section 3, 20_memory.md sections 5 and 9): block stores and block loads
within bounds, and the fault of those that are not. -/

namespace Sys2Proof.Machine

theorem digit_toNat {d : Nat} (h : d ≤ 9) : (BitVec.ofNat 8 d).toNat = d :=
  (BitVec.toNat_ofNat d 8).trans (Nat.mod_eq_of_lt (by omega))

/-! ### The obligations -/

/-- Settles O40: the block stored is the list of the three digits, each of which fits a byte. -/
theorem bcdStoresDigits : Obligations.BcdStoresDigits := by
  intro x s h
  have hraised : raised (.bcd x) s = none := dataCheck_none_iff.mpr (.inr h)
  refine ⟨_, exec_of_not_raised hraised, ?_⟩
  generalize ht : effect (Config.randomByte s.randDraws) (.bcd x) s = t
  have hbyte (k : Nat) (hk : k < 3) : t.readByte (s.index.toNat + k) = (bcdDigits (s.reg x))[k] := by
    rw [← ht]
    exact s.readByte_storeBytes_add (s.effAddr 0) (bcdDigits (s.reg x)) hk
  have hhundreds : (s.reg x).toNat / 100 ≤ 2 := by
    have hlt : (s.reg x).toNat < 256 := (s.reg x).isLt
    omega
  have h0 : (t.readByte s.index.toNat).toNat = (s.reg x).toNat / 100 :=
    (congrArg BitVec.toNat (hbyte 0 (by decide))).trans (digit_toNat (by omega))
  have h1 : (t.readByte (s.index.toNat + 1)).toNat = (s.reg x).toNat / 10 % 10 :=
    (congrArg BitVec.toNat (hbyte 1 (by decide))).trans (digit_toNat (by omega))
  have h2 : (t.readByte (s.index.toNat + 2)).toNat = (s.reg x).toNat % 10 :=
    (congrArg BitVec.toNat (hbyte 2 (by decide))).trans (digit_toNat (by omega))
  rw [h0, h1, h2]
  exact ⟨by omega, hhundreds, by omega, by omega, ht ▸ effect_pc _ (.bcd x) s, ht ▸ frame_effect _ (.bcd x) s⟩

/-- Settles O41: the block stored is the list of the registers V0 to V[x]. -/
theorem storeRegistersBlock : Obligations.StoreRegistersBlock := by
  intro x s h
  have hraised : raised (.stm x) s = none := dataCheck_none_iff.mpr (.inr h)
  refine ⟨_, exec_of_not_raised hraised, fun r hr => ?_, effect_pc _ (.stm x) s, frame_effect _ (.stm x) s⟩
  have hlen : r.toNat < (s.readRegs (blockLength x)).length := by
    rw [State.length_readRegs]
    exact Nat.lt_succ_of_le hr
  calc (s.storeBytes (s.effAddr 0) (s.readRegs (blockLength x))).readByte (s.effAddr 0 + r.toNat)
      = (s.readRegs (blockLength x))[r.toNat] := s.readByte_storeBytes_add _ _ hlen
    _ = s.reg (BitVec.ofNat 4 r.toNat) := s.getElem_readRegs _ _ hlen
    _ = s.reg r := by rw [BitVec.ofNat_toNat, BitVec.setWidth_eq]

/-- Settles O42: the registers loaded are V0 to V[x], from the list of the bytes at I; no other is in the frame. -/
theorem loadRegistersBlock : Obligations.LoadRegistersBlock := by
  intro x s h
  have hraised : raised (.ldm x) s = none := dataCheck_none_iff.mpr (.inr h)
  have hframe := frame_effect (Config.randomByte s.randDraws) (.ldm x) s
  refine ⟨_, exec_of_not_raised hraised, fun r hr => ?_, fun r hr => hframe (.reg r) ?_, effect_pc _ (.ldm x) s,
    hframe⟩
  · have hlen : 0 ≤ r.toNat ∧ r.toNat - 0 < (s.readBytes (s.effAddr 0) (blockLength x)).length := by
      rw [State.length_readBytes]
      exact ⟨Nat.zero_le _, Nat.lt_succ_of_le hr⟩
    have hfits : 0 + (s.readBytes (s.effAddr 0) (blockLength x)).length ≤ 16 := by
      rw [State.length_readBytes, Nat.zero_add]
      exact blockLength_le x
    calc (s.setRegs 0 (s.readBytes (s.effAddr 0) (blockLength x))).reg r
        = (s.readBytes (s.effAddr 0) (blockLength x))[r.toNat - 0] :=
          (s.reg_setRegs _ 0 r hfits).trans (dif_pos hlen)
      _ = s.readByte (s.index.toNat + r.toNat) := s.getElem_readBytes _ _ _ hlen.2
  · have hnot : Item.reg r ∉ regItems (x.toNat + 1) :=
      (mem_regItems (n := x.toNat + 1) (blockLength_le x)).not.mpr (by omega)
    simpa [writesOf] using hnot

/-- Settles O43: LDM reads back at I + r what STM stored there, and the other registers neither of them writes. -/
theorem storeThenLoadBlock : Obligations.StoreThenLoadBlock := by
  intro x s h
  obtain ⟨t, ht, hstored, -, hstm⟩ := storeRegistersBlock x s h
  have hindex : t.index = s.index := hstm .index (by simp [byteItems])
  have hregs (r : RegNum) : t.reg r = s.reg r := hstm (.reg r) (by simp [byteItems])
  obtain ⟨u, hu, hloaded, hkept, -, hldm⟩ := loadRegistersBlock x t (hindex ▸ h)
  have huindex : u.index = t.index := hldm .index (by simp [regItems])
  refine ⟨t, u, ht, hu, fun r => ?_, huindex.trans hindex, fun a => hldm (.byte a) (by simp [regItems])⟩
  rcases Nat.lt_or_ge x.toNat r.toNat with hr | hr
  · exact (hkept r hr).trans (hregs r)
  · rw [hloaded r hr, hindex, hstored r hr]

/-- Settles O44: each of the four checks its whole access set before it moves anything. -/
theorem dataBoundFaults : Obligations.DataBoundFaults := by
  intro x y n s
  exact ⟨fun h => exec_fault (dataCheck_fault (n := 3) (by decide) h),
    fun h => ⟨exec_fault (dataCheck_fault (n := blockLength x) (Nat.succ_pos _) h),
      exec_fault (dataCheck_fault (n := blockLength x) (Nat.succ_pos _) h)⟩,
    fun hn h => exec_fault (dataCheck_fault hn h)⟩

/-- Settles O45: the next pc does not wrap, so the next fetch reads two bytes of the block that STM stored. -/
theorem storesSeenByNextFetch : Obligations.StoresSeenByNextFetch := by
  intro x s k h hk hpc
  obtain ⟨t, ht, hstored, htpc, -⟩ := storeRegistersBlock x s h
  have hx : x.toNat < 16 := x.isLt
  have hnext : t.pc.toNat = s.index.toNat + k := by
    rw [htpc, BitVec.toNat_add, ← hpc]
    exact Nat.mod_eq_of_lt (show s.pc.toNat + 2 < 65536 by omega)
  have hread (j : Nat) (hj : j ≤ x.toNat) : t.readByte (s.index.toNat + j) = s.reg (BitVec.ofNat 4 j) := by
    have hnum : (BitVec.ofNat 4 j).toNat = j := (BitVec.toNat_ofNat j 4).trans (Nat.mod_eq_of_lt (by omega))
    have hreg := hstored (BitVec.ofNat 4 j) (hnum.trans_le hj)
    rwa [hnum] at hreg
  refine ⟨t, ht, ?_⟩
  rw [fetch_of_le t (by omega), hnext, Nat.add_assoc, hread k (by omega), hread (k + 1) hk]

end Sys2Proof.Machine
end

section

/-! PROOFS. The sprite (44_display.md section 2): DRW in closed form, and what follows from it alone. -/

namespace Sys2Proof.Machine

/-! ### The sprite drawn, in terms of the pixels covered -/

section
variable (s : State) (x y : RegNum) (n : Nat)

theorem State.drawn_eq : s.drawn x y n =
    plots (allIdx (s.reg x).toNat (s.reg y).toNat (s.readBytes (s.effAddr 0) n)) (s.fb, false) :=
  drawRows_eq _ _ _ _

variable {s x y n}

theorem State.drawn_pixel {k : Nat} (hk : k < 2048) : (s.drawn x y n).1.getLsbD k = (s.pixel k ^^
    decide (k ∈ allIdx (s.reg x).toNat (s.reg y).toNat (s.readBytes (s.effAddr 0) n))) := by
  obtain ⟨hpixel, -⟩ := plots_spec _ (nodup_allIdx (s.reg x).toNat (s.reg y).toNat (s.readBytes (s.effAddr 0) n))
    (s.fb, false)
  rw [State.drawn_eq, hpixel k hk]
  rfl

theorem State.drawn_pixel_of_covers {k : Nat} (hk : k < 2048) (hc : covers s x y n k) :
    (s.drawn x y n).1.getLsbD k = !s.pixel k := by
  rw [State.drawn_pixel hk, decide_eq_true ((covers_iff ..).mp hc), Bool.xor_true]

theorem State.drawn_pixel_of_not_covers {k : Nat} (hk : k < 2048) (hc : ¬covers s x y n k) :
    (s.drawn x y n).1.getLsbD k = s.pixel k := by
  rw [State.drawn_pixel hk, decide_eq_false ((covers_iff ..).not.mp hc), Bool.xor_false]

/-- The collision: some covered pixel was lit. -/
theorem State.drawn_collision :
    (s.drawn x y n).2 = true ↔ ∃ k < 2048, covers s x y n k ∧ s.pixel k = true := by
  obtain ⟨-, hcollision⟩ := plots_spec _ (nodup_allIdx (s.reg x).toNat (s.reg y).toNat (s.readBytes (s.effAddr 0) n))
    (s.fb, false)
  rw [State.drawn_eq, hcollision]
  simp only [covers_iff, State.pixel, Bool.false_eq_true, false_or]

/-- A sprite whose top row is 32 or more aims at no pixel of the framebuffer (R176). -/
theorem covers_ge {k : Nat} (hy : 32 ≤ (s.reg y).toNat) (h : covers s x y n k) : 2048 ≤ k := by
  obtain ⟨row, -, col, -, -, hk⟩ := h
  omega

theorem covers_congr {t : State} (hx : t.reg x = s.reg x) (hy : t.reg y = s.reg y) (hi : t.index = s.index)
    (hm : ∀ a, t.readByte a = s.readByte a) (k : Nat) : covers t x y n k ↔ covers s x y n k := by
  simp only [covers, hx, hy, hi, hm]

end

theorem fb_ext {s t : State} (h : ∀ k < 2048, t.pixel k = s.pixel k) : t.fb = s.fb :=
  BitVec.eq_of_getLsbD_eq h

/-- An item that kept its value may leave the frame. -/
theorem Frame.tail {it : Item} {l : List Item} {s t : State} (h : Frame (it :: l) s t) (hit : it.same s t) :
    Frame l s t := by
  intro j hj
  by_cases hji : j = it
  · exact hji ▸ hit
  · exact h j (List.not_mem_cons_of_ne_of_not_mem hji hj)

/-! ### The obligations -/

/-- Settles O47: no pixel is aimed at twice, so each covered one is toggled once, and the flag is the collision. -/
theorem drawClosedForm : Obligations.DrawClosedForm := by
  intro x y n s h
  have hraised : raised (.drw x y n) s = none := dataCheck_none_iff.mpr h
  have hflag : (effect (Config.randomByte s.randDraws) (.drw x y n) s).reg VF = if (s.drawn x y n).2 then 1 else 0 :=
    State.reg_setReg_self _ VF _
  refine ⟨_, exec_of_not_raised hraised, fun _ hk hc => State.drawn_pixel_of_covers hk hc,
    fun _ hk hc => State.drawn_pixel_of_not_covers hk hc, fun hc => ?_, fun hc => ?_, rfl,
    frame_effect _ (.drw x y n) s⟩
  · rw [hflag, if_pos (State.drawn_collision.mpr hc)]
  · rw [hflag, if_neg (State.drawn_collision.not.mpr hc)]

/-- Settles O48: the first draw leaves the coordinates, I and memory, so the second covers the same pixels and toggles
them back; a covered pixel is lit before the second exactly when it was dark before the first. -/
theorem drawTwiceRestores : Obligations.DrawTwiceRestores := by
  intro x y n s hx hy h
  obtain ⟨t, ht, htoggled, hkept, -, -, -, hframe⟩ := drawClosedForm x y n s h
  have hindex : t.index = s.index := hframe .index (by simp)
  obtain ⟨u, hu, htoggled', hkept', hset, hclear, -, -⟩ := drawClosedForm x y n t (hindex ▸ h)
  have hcovers (k : Nat) : covers t x y n k ↔ covers s x y n k :=
    covers_congr (hframe (.reg x) (by simp [hx])) (hframe (.reg y) (by simp [hy])) hindex
      (fun a => hframe (.byte a) (by simp)) k
  have hlit : (∃ k < 2048, covers t x y n k ∧ t.pixel k = true) ↔
      ∃ k < 2048, covers s x y n k ∧ s.pixel k = false := by
    refine exists_congr fun k => and_congr_right fun hk => (and_congr_left' (hcovers k)).trans
      (and_congr_right fun hc => ?_)
    rw [htoggled k hk hc, Bool.not_eq_true']
  refine ⟨t, u, ht, hu, fb_ext fun k hk => ?_, fun hdark => hset (hlit.mpr hdark),
    fun hdark => hclear (hlit.not.mpr hdark)⟩
  by_cases hc : covers s x y n k
  · rw [htoggled' k hk ((hcovers k).mpr hc), htoggled k hk hc, Bool.not_not]
  · rw [hkept' k hk ((hcovers k).not.mpr hc), hkept k hk hc]

/-- Settles O49: no pixel of the framebuffer is covered, so the closed form keeps all of them and clears VF. -/
theorem drawBelowScreenClipped : Obligations.DrawBelowScreenClipped := by
  intro x y n s h hy
  obtain ⟨t, ht, -, hkept, -, hclear, hpc, hframe⟩ := drawClosedForm x y n s h
  have hnone (k : Nat) (hk : k < 2048) : ¬covers s x y n k := fun hc => (covers_ge hy hc).not_gt hk
  have hfb : t.fb = s.fb := fb_ext fun k hk => hkept k hk (hnone k hk)
  exact ⟨t, ht, hfb, hclear fun ⟨k, hk, hc, _⟩ => hnone k hk hc, hpc, hframe.tail hfb⟩

end Sys2Proof.Machine
end

section

/-! PROOFS. The keypad and the timers (45_keypad_timers.md): key skips, the key wait, and timers set in one step and
decayed in the same. -/

namespace Sys2Proof.Machine

section
variable {s : State}

theorem State.retire_st_toNat (h : s.fault = none) : s.retire.st.toNat = s.st.toNat - 1 := by
  rw [s.retire_of_none h]
  exact decayTimer_toNat s.st

theorem State.retire_fault_of_none (h : s.fault = none) : s.retire.fault = none := by
  rw [s.retire_of_none h]
  exact h

/-- An unlatched state reports its tick: ST is 1 (R89). -/
theorem State.report_eq_tick_iff (h : s.fault = none) : s.report = .ok true ↔ s.st = 1 := by
  simp [State.report, h, State.toneTick]

end

/-! ### The obligations -/

/-- Settles O50: up to 15 both are skips, on the level of the key and on its negation; above 15 the check faults. -/
theorem keySkips : Obligations.KeySkips := by
  intro x s
  refine ⟨fun h => ?_, fun h => ⟨exec_fault (keyCheck_fault h), exec_fault (keyCheck_fault h)⟩⟩
  have hskp : exec (.skp x) s = .next (s.skipIf (s.keyOf x)) := exec_of_not_raised (keyCheck_none_iff.mpr h)
  have hsknp : exec (.sknp x) s = .next (s.skipIf (!s.keyOf x)) := exec_of_not_raised (keyCheck_none_iff.mpr h)
  exact ⟨exec_skip hskp id id, exec_skip hsknp (Bool.not_eq_true' _).mpr (Bool.not_eq_false' _).mpr⟩

/-- Settles O51: the scan of the keys finds the lowest pressed one, whose index fits a byte. -/
theorem waitKeyTakesLowest : Obligations.WaitKeyTakesLowest := by
  intro x s k h
  have hexec : exec (.wkey x) s = .next (s.setReg x (BitVec.ofNat 8 k)).advance := by
    simp only [exec, execWkey, s.lowestKey_of_lowestPressed h]
  obtain ⟨t, ht, hreg, hrest⟩ := exec_setReg_advance hexec
  obtain ⟨hk, -⟩ := h
  exact ⟨t, ht, hreg ▸ (BitVec.toNat_ofNat k 8).trans (Nat.mod_eq_of_lt (by omega)), hrest⟩

/-- Settles O52: the scan finds no key, so execute leaves the state, and phase 4 decays the timers of that state. -/
theorem waitKeyWaits : Obligations.WaitKeyWaits := by
  intro x s h
  have hexec : exec (.wkey x) s = .next s := by simp only [exec, execWkey, s.lowestKey_eq_none h]
  refine ⟨hexec, fun hs hd => ⟨s.decay, ?_, rfl, decayTimer_toNat s.dt, decayTimer_toNat s.st, frame_decay s⟩⟩
  rw [step_of_fetchDecode s hs hd, hexec, retireResult, s.retire_of_none hs]

/-- Settles O54: STST leaves the latch alone, so its step decays the value written and ticks for a value of 1. -/
theorem soundTimerWrite : Obligations.SoundTimerWrite := by
  intro x s hs
  have hexec : exec (.stst x) s = .next (s.setSt (s.reg x)).advance := rfl
  have hfault : (s.setSt (s.reg x)).advance.fault = none := hs
  exact ⟨_, hexec, rfl, rfl, (frame_setSt s (s.reg x)).trans (frame_advance _), State.retire_st_toNat hfault,
    State.report_eq_tick_iff hfault⟩

/-- Settles O55: DT decays once after STDT and once more after LDDT, which reads it in between. -/
theorem delaySetThenRead : Obligations.DelaySetThenRead := by
  intro x y s hs
  obtain ⟨-, t, ht, -, -, hframe, htdt⟩ := delayTimerAccess x s hs
  have htfault : t.fault = s.fault := hframe .latch (by simp)
  have hretired : t.retire.fault = none := State.retire_fault_of_none (htfault.trans hs)
  obtain ⟨⟨u, hu, hreg, -, -, -, hudt⟩, -⟩ := delayTimerAccess y t.retire hretired
  exact ⟨t, u, ht, hu, hreg ▸ htdt, by omega⟩

end Sys2Proof.Machine
end

section

/-! PROOFS. The driver (46_host_interface.md): the transactions in and out of protocol, and the byte that comes with a
step. -/

namespace Sys2Proof.Machine

theorem frame_setKeys (s : State) (k : Vector Bool 16) : Frame [.keys] s (s.setKeys k) := by
  intro it hit
  cases it with
  | keys => exact absurd (List.mem_singleton_self Item.keys) hit
  | _ => rfl

/-- Every step has a report, from a latched state too. -/
theorem exists_stepReportWith (rand : Byte) (s : State) : ∃ r, stepReportWith rand s = some r := by
  cases hs : s.fault with
  | some f => exact ⟨_, (stepWith_latched rand hs).2.1⟩
  | none =>
    obtain ⟨_, r, -, hr, -⟩ := stepWith_next rand hs
    exact ⟨r, hr⟩

/-- In an initialised session a step leads to the state after it, with its report. -/
theorem Session.transact_step {c : Session} {s : State} {rand : Byte} {r : StepReport} (hc : c.state = some s)
    (hr : stepReportWith rand s = some r) :
    c.transact (.step rand) = some (.running (afterStepWith rand s), .stepped r) := by
  simp only [Session.transact, Session.step, hc, hr]

theorem Session.transact_step_ne_none {c : Session} {s : State} (rand : Byte) (hc : c.state = some s) :
    c.transact (.step rand) ≠ none := by
  obtain ⟨r, hr⟩ := exists_stepReportWith rand s
  rw [Session.transact_step hc hr]
  exact Option.some_ne_none _

/-! ### The protocol (R217, R220), by where the session stands -/

section
variable (tr : Transaction)

theorem Session.transact_off_eq_none_iff (font : Font) : (Session.off font).transact tr = none ↔ tr ≠ .initialise := by
  cases tr with
  | initialise => exact iff_of_false (Option.some_ne_none _) fun h => h rfl
  | _ => exact iff_of_true rfl nofun

theorem Session.transact_ready_ne_none (s : State) : (Session.ready s).transact tr ≠ none := by
  cases tr with
  | load bytes =>
    simp only [Session.transact, Session.load]
    cases s.load bytes <;> exact Option.some_ne_none _
  | step rand => exact Session.transact_step_ne_none rand rfl
  | _ => exact Option.some_ne_none _

theorem Session.transact_running_eq_none_iff (s : State) :
    (Session.running s).transact tr = none ↔ ∃ bytes, tr = .load bytes := by
  cases tr with
  | load bytes => exact iff_of_true rfl ⟨bytes, rfl⟩
  | step rand => exact iff_of_false (Session.transact_step_ne_none rand rfl) nofun
  | _ => exact iff_of_false (Option.some_ne_none _) nofun

end

/-! ### The byte of a step that executes no RND -/

theorem runPhases_execWith {s : State} (h : ∀ x kk, fetchDecode s ≠ .ok (.rnd x kk)) (rand : Byte) :
    runPhases (execWith rand) s = runPhases exec s := by
  unfold runPhases
  cases hd : fetchDecode s with
  | error f => rfl
  | ok i => exact execWith_of_ne_rnd s rand fun x kk hi => h x kk (hi ▸ hd)

theorem stepWith_eq_step {s : State} (h : ∀ x kk, fetchDecode s ≠ .ok (.rnd x kk)) (rand : Byte) :
    stepWith rand s = step s ∧ stepReportWith rand s = stepReport s := by
  simp only [stepWith, step, runStep, stepReportWith, stepReport, runReport, runPhases_execWith h rand, and_self]

/-! ### The obligations -/

/-- Settles O57: the length check comes before any byte is stored. -/
theorem longImageRefused : Obligations.LongImageRefused := by
  intro s bytes h
  have hload : s.load bytes = .error .romTooLarge := if_neg h.not_ge
  refine ⟨hload, ?_⟩
  simp only [Session.transact, Session.load, hload]

/-- Settles O58: the write replaces the keys as a whole. -/
theorem setKeysWritesAll : Obligations.SetKeysWritesAll := by
  intro s k
  refine ⟨fun j hj => ?_, frame_setKeys s k⟩
  simp [State.key, State.setKeys, hj]

/-- Settles O59: one clause per place in the protocol; a session that is ready has every transition. -/
theorem protocolHasNoOtherTransition : Obligations.ProtocolHasNoOtherTransition := by
  intro c tr
  cases c with
  | off font => simp [Session.transact_off_eq_none_iff]
  | ready s => simp [Session.transact_ready_ne_none]
  | running s => simp [Session.transact_running_eq_none_iff]

/-- Settles O60: a step of an RND has the effect of the byte given, which is all that any step does with the byte; a
latched step comes to neither. -/
theorem driverSuppliesRandomByte : Obligations.DriverSuppliesRandomByte := by
  intro c s rand hc
  refine ⟨?_, fun f hf => ?_, fun x kk hs hd => ?_, fun h => stepWith_eq_step h rand, stepWith_randomByte s⟩
  · obtain ⟨r, hr⟩ := exists_stepReportWith rand s
    exact ⟨r, hr, Session.transact_step hc hr⟩
  · obtain ⟨-, hr, hafter⟩ := stepWith_latched rand hf
    rw [Session.transact_step hc hr, hafter]
  · obtain ⟨hstep, -⟩ := stepsTo_of_effect (rand := rand) hs hd rfl
    have hreg : (effect rand (.rnd x kk) s).reg x = rand &&& kk := State.reg_setReg_self _ x _
    exact ⟨_, hstep, hreg, rfl, decayTimer_toNat s.dt, decayTimer_toNat s.st, rfl,
      (frame_effect rand (.rnd x kk) s).trans (frame_decay _)⟩

end Sys2Proof.Machine
end
